-- ==== Sys2Proof/Word.lean ====
section
/-! DEFINITION. The widths the hardware's registers and wires have (00_scope.md R5, 10_state.md R20 to R24).
Nothing here computes: bit positions, tables and byte order are in Machine/Bits.lean and after. -/

namespace Sys2Proof

/-- One byte of a buffer (20_memory.md R50). -/
abbrev Byte := BitVec 8

/-- A bit sequence of any length, first bit first (00_scope.md R7). -/
abbrev BitSeq := List Bool

/-- The 64-bit key (10_state.md R21). -/
abbrev KeyWord := BitVec 64

/-- A 28-bit half of the key schedule state (10_state.md R22). -/
abbrev KeyHalf := BitVec 28

/-- A 48-bit round key (10_state.md R23). -/
abbrev RoundKey := BitVec 48

/-- The sixteen round keys of a run (10_state.md R23). -/
abbrev RoundKeys := Vector RoundKey 16

/-- A 32-bit half of the data block (10_state.md R24). -/
abbrev Half := BitVec 32

/-- A 64-bit block (00_scope.md R5). -/
abbrev BlockWord := BitVec 64

end Sys2Proof
end

