-- ==== Sys2Proof/Syntax.lean ====
section
/-! DEFINITION. The operations of the engine as syntax: the fourteen rows of spec/opcode_table.json, the two code
formats they are encoded in, and the accesses a host can make (60_exceptions.md R221, R225). -/

namespace Sys2Proof

/-- One constructor per row of spec/opcode_table.json. No row has an operand field: the operands of a command are
the buffers and length registers (30_encoding.md R83), those of a micro-operation the registers its rule names. -/
inductive Instr where
  /-- ENC, host command 00 (44_block_controller.md R173). -/
  | enc
  /-- DEC, host command 01 (R174). -/
  | dec
  /-- ENCP, host command 10 (R175). -/
  | encp
  /-- DECP, host command 11 (R176). -/
  | decp
  /-- IDLE, micro-operation 0 (R171). -/
  | idle
  /-- KEYCHK, micro-operation 1 (R180). -/
  | keychk
  /-- LENCHK, micro-operation 2 (R181). -/
  | lenchk
  /-- KS_PC1, micro-operation 3 (R182). -/
  | ksPc1
  /-- KS_ROUND, micro-operation 4 (R183). -/
  | ksRound
  /-- BLK_LOAD, micro-operation 5 (R184). -/
  | blkLoad
  /-- BLK_ROUND, micro-operation 6 (R185). -/
  | blkRound
  /-- BLK_STORE, micro-operation 7 (R186). -/
  | blkStore
  /-- STRIP, micro-operation 8 (R187). -/
  | strip
  /-- FINISH, micro-operation 9 (R190). -/
  | finish
  deriving DecidableEq, Repr

/-- An instruction's code, in one of the two formats of 30_encoding.md R80. The two code spaces are separate. -/
inductive Code where
  /-- Format CMD: the 2-bit word written to register CMD (R81). -/
  | cmd (w : BitVec 2)
  /-- Format UOP: the 4-bit value of PHASE (R84). -/
  | uop (c : BitVec 4)
  deriving DecidableEq, Repr

/-- The host-visible registers by name; `HostReg.number` gives their numbers (10_state.md R27 to R30). -/
inductive HostReg where
  | cmd
  | klen
  | dlen
  | status
  | olen
  deriving DecidableEq, Repr

/-- The register numbers of 10_state.md R27 to R30 (92_eei_decisions.md D5). -/
def HostReg.number : HostReg → Nat
  | .cmd => 0
  | .klen => 1
  | .dlen => 2
  | .status => 3
  | .olen => 4

/-- The byte spaces of 20_memory.md R50; TEXT is the derived view of R52. -/
inductive Space where
  | keybuf
  | inbuf
  | text
  | outbuf
  deriving DecidableEq, Repr

/-- What the outside can do to the block between two engine steps (60_exceptions.md R221, R225; 70_reset_and_hazards.md
R240), as entries of the list `State.hostq`. -/
inductive HostAct where
  /-- Write a word to CMD: START when BUSY = 0 (44_block_controller.md R171). -/
  | writeCmd (w : BitVec 2)
  /-- Write KLEN (10_state.md R28). -/
  | writeKlen (n : Nat)
  /-- Write DLEN (10_state.md R28). -/
  | writeDlen (n : Nat)
  /-- Write one byte of KEYBUF (20_memory.md R50). -/
  | writeKeybuf (a : Nat) (v : Byte)
  /-- Write one byte of IN (20_memory.md R50). -/
  | writeIn (a : Nat) (v : Byte)
  /-- Read a register. -/
  | readReg (r : HostReg)
  /-- Read one byte of OUT (20_memory.md R58). -/
  | readOut (a : Nat)
  /-- Read STATUS again and again until DONE = 1, the engine stepping meanwhile (30_encoding.md R92). -/
  | pollDone
  /-- Do nothing while the engine takes one step (the model's own entry: it places an access inside a run). -/
  | engineStep
  /-- The reset event (70_reset_and_hazards.md R240). -/
  | reset
  deriving DecidableEq, Repr

end Sys2Proof
end

