-- ==== Sys2Proof/Config.lean ====
section
/-! DEFINITION. What the design fixes (00_scope.md R5) and the free values: constants with no body, so that no proof
can use what they are. MAXLEN is unbounded, PAR is 1, cycles per step and BusBinding are used by no rule (00_scope.md
R6; logs 6 and 7). -/

namespace Sys2Proof.Config

/-- KEY_BYTES: a shorter key is refused, a longer one is cut (00_scope.md R5). -/
def keyBytes : Nat := 8

/-- BLOCK_BYTES (00_scope.md R5). -/
def blockBytes : Nat := 8

/-- NROUNDS (00_scope.md R5, R11). -/
def nRounds : Nat := 16

/-- PAD_BYTE, the space character (20_memory.md R52, 92_eei_decisions.md D9). -/
def padByte : Byte := 0x20

/-- FREE VALUE (log 2). What index `a` of a space reads as when no byte has been written there since reset number
`resets` (10_state.md R36, 93_implementation_defined.md U2, U5), and what TEXT reads as outside its range. -/
opaque unwritten (resets : Nat) (sp : Space) (a : Nat) : Byte

/-- FREE VALUE (log 4). What the host reads from OUT where its contents are no result (20_memory.md R58, U4). -/
opaque noResult (draw : Nat) : Byte

/-- FREE VALUE (log 4). What a host read of the write-only CMD returns (10_state.md R27, U9). -/
opaque cmdRead (draw : Nat) : BitVec 2

end Sys2Proof.Config
end

