-- ==== Sys2Proof/WellFormed.lean ====
section
/-! DEFINITION. The checks on syntax: an instruction, a code, a permutation table. -/

namespace Sys2Proof

/-- Every instruction is well-formed: no row of the opcode table has an operand field, so there is no operand value
to refuse (30_encoding.md R83, R90). Written arm by arm so that a new row must be considered. -/
def Instr.wf : Instr → Bool
  | .enc => true
  | .dec => true
  | .encp => true
  | .decp => true
  | .idle => true
  | .keychk => true
  | .lenchk => true
  | .ksPc1 => true
  | .ksRound => true
  | .blkLoad => true
  | .blkRound => true
  | .blkStore => true
  | .strip => true
  | .finish => true

/-- A code names an operation: all four command words do, and PHASE codes 0 to 9 (30_encoding.md R82, R84, R90). -/
def Code.wf : Code → Bool
  | .cmd _ => true
  | .uop c => c.toNat < 10

/-- A table of `m` source positions in `1..n` (41_tables.md R110). -/
def tableOk (n m : Nat) (t : List Nat) : Bool :=
  t.length == m && t.all (fun p => 1 ≤ p && p ≤ n)

end Sys2Proof
end

