-- ==== Sys2Proof/Decode.lean ====
section
/-! DEFINITION. Decoding of the two formats of 30_encoding.md and the encoder, both from R81, R82 and R84. -/

namespace Sys2Proof

/-- Why a code names no operation. -/
inductive DecodeError where
  /-- PHASE codes 10 to 15 (30_encoding.md R90, 93_implementation_defined.md U8). -/
  | undefinedPhase (c : BitVec 4)
  deriving DecidableEq, Repr

/-- CMD[0], DIR (30_encoding.md R81): true is 1, Decrypt. -/
def cmdDir (w : BitVec 2) : Bool := w.getLsbD 0

/-- CMD[1], PAD (30_encoding.md R81). -/
def cmdPad (w : BitVec 2) : Bool := w.getLsbD 1

/-- The command a word names (30_encoding.md R82); every word names one (R90). -/
def decodeCmd (w : BitVec 2) : Instr :=
  match cmdPad w, cmdDir w with
  | false, false => .enc
  | false, true => .dec
  | true, false => .encp
  | true, true => .decp

/-- The micro-operation a phase code names (30_encoding.md R84). -/
def decodeUop (c : BitVec 4) : Except DecodeError Instr :=
  match c.toNat with
  | 0 => .ok .idle
  | 1 => .ok .keychk
  | 2 => .ok .lenchk
  | 3 => .ok .ksPc1
  | 4 => .ok .ksRound
  | 5 => .ok .blkLoad
  | 6 => .ok .blkRound
  | 7 => .ok .blkStore
  | 8 => .ok .strip
  | 9 => .ok .finish
  | _ => .error (.undefinedPhase c)

/-- The decoder: total on both formats, rejecting by name. -/
def decode : Code → Except DecodeError Instr
  | .cmd w => .ok (decodeCmd w)
  | .uop c => decodeUop c

/-- The code of an instruction, from the tables of 30_encoding.md R82 and R84. -/
def encode : Instr → Code
  | .enc => .cmd 0b00#2
  | .dec => .cmd 0b01#2
  | .encp => .cmd 0b10#2
  | .decp => .cmd 0b11#2
  | .idle => .uop 0b0000#4
  | .keychk => .uop 0b0001#4
  | .lenchk => .uop 0b0010#4
  | .ksPc1 => .uop 0b0011#4
  | .ksRound => .uop 0b0100#4
  | .blkLoad => .uop 0b0101#4
  | .blkRound => .uop 0b0110#4
  | .blkStore => .uop 0b0111#4
  | .strip => .uop 0b1000#4
  | .finish => .uop 0b1001#4

/-- The code meant by a word of the opcode table: a 2-bit word is a command, a 3- or 4-bit one a phase code. Longer
than both formats, a word below 4 is read as a command, since a host presents nothing else, and one below 16 as a
phase code (DESIGN CHOICE, log 14: the two code spaces overlap). -/
def tableCode (nbits w : Nat) : Option Code :=
  if nbits ≤ 2 then
    if w < 4 then some (.cmd (BitVec.ofNat 2 w)) else none
  else if nbits ≤ 4 then
    if w < 16 then some (.uop (BitVec.ofNat 4 w)) else none
  else if w < 4 then some (.cmd (BitVec.ofNat 2 w))
  else if w < 16 then some (.uop (BitVec.ofNat 4 w))
  else none

/-- The instruction the decoder reads from a word of the opcode table. -/
def decodeTableWord (nbits w : Nat) : Option Instr :=
  match tableCode nbits w with
  | some c =>
    match decode c with
    | .ok i => some i
    | .error _ => none
  | none => none

end Sys2Proof
end

