-- ==== Sys2Proof/Machine/State.lean ====
section
/-! DEFINITION. The machine's state as plain data, holding every register, buffer and flag of spec/10_state.md, the
errors of 60_exceptions.md, the reasons the model stops, and the state after reset. -/

namespace Sys2Proof.Machine

/-- The error kinds of 60_exceptions.md R210. -/
inductive ErrorKind where
  /-- Code 1: KLEN < 8 (R211). -/
  | invalidKeyLength
  /-- Code 2: the data length is no multiple of 8 (R212). -/
  | unalignedData
  /-- Code 3: no step of this hardware raises it (R213). -/
  | malformedBitLength
  /-- Code 4: no step of this hardware raises it (R214). -/
  | valueTooLarge
  /-- Code 5: no usable pad count (R215). -/
  | padStripError
  deriving DecidableEq, Repr

/-- Why the machine stops with a fault. None of these is an error of 60_exceptions.md: those are next states. -/
inductive Fault where
  /-- Raised by `fetch` when the engine is to step and PHASE holds a code 10 to 15, where the spec defines no step
  (93_implementation_defined.md U8, "stuck"). Safe: the model stops where the spec says nothing (log 8). -/
  | undefinedPhase (c : BitVec 4)
  /-- Raised by KS_ROUND and BLK_ROUND when I is 16 or more: there is no entry RK[I] and no SHIFT[I] (10_state.md R23,
  R26). No run from reset reaches it. Safe: the model stops where the spec gives no effect (log 9). -/
  | roundIndexOutOfRange (i : BitVec 5)
  deriving DecidableEq, Repr

/-- Why the machine refuses a move. -/
inductive Refusal where
  /-- An instruction without a meaning yet, by its mnemonic. Raised by no arm of `exec`. Safe. -/
  | notModelled (mnemonic : String)
  /-- Raised by a host write of index `a` of KEYBUF or IN while BUSY = 1, "a move the host never makes"
  (70_reset_and_hazards.md R251, 93_implementation_defined.md U3, "refuse"). Safe: the model stops (log 5). -/
  | bufferWriteWhileBusy (sp : Space) (a : Nat)
  deriving DecidableEq, Repr

/-- A byte buffer: address and byte pairs, addresses strictly rising (`Memory.wf`). An unlisted address holds no value:
nothing has been written there since reset (10_state.md R36; log 2). -/
abbrev Memory := List Host.Cell

/-- The state. -/
structure State where
  /-- CMD, host register 0: the word last accepted (10_state.md R27). -/
  cmd : BitVec 2
  /-- KLEN, host register 1, in bytes (10_state.md R28). -/
  klen : Nat
  /-- DLEN, host register 2, in bytes (10_state.md R28). -/
  dlen : Nat
  /-- STATUS, host register 3: BUSY bit 0, DONE bit 1, ERR bits 4:2 (10_state.md R29). -/
  status : BitVec 5
  /-- OLEN, host register 4, in bytes (10_state.md R30). -/
  olen : Nat
  /-- PHASE: the code of the next micro-operation (10_state.md R26). -/
  phase : BitVec 4
  /-- I: the round index (10_state.md R26). -/
  i : BitVec 5
  /-- B: the index of the block in work (10_state.md R26). -/
  b : Nat
  /-- NBLK: the number of blocks of the run (10_state.md R26). -/
  nblk : Nat
  /-- WLEN: the length of the working text (10_state.md R26). -/
  wlen : Nat
  /-- DIR, latched: true is 1, Decrypt (10_state.md R26). -/
  dir : Bool
  /-- PAD, latched (10_state.md R26). -/
  pad : Bool
  /-- KEY (10_state.md R21). -/
  key : KeyWord
  /-- C (10_state.md R22). -/
  c : KeyHalf
  /-- D (10_state.md R22). -/
  d : KeyHalf
  /-- RK[0..15] (10_state.md R23). -/
  rk : RoundKeys
  /-- L (10_state.md R24). -/
  l : Half
  /-- R (10_state.md R24). -/
  r : Half
  /-- KEYBUF (20_memory.md R50). -/
  keybuf : Memory
  /-- IN (20_memory.md R50). -/
  inbuf : Memory
  /-- OUT (20_memory.md R50). -/
  outbuf : Memory
  /-- The model's own: the host's pending accesses, oldest first (log 3). -/
  hostq : List HostAct
  /-- The model's own: what the host's last read returned (log 3). -/
  rdata : Option Nat
  /-- The model's own: how many free values host reads have drawn (log 4). -/
  draws : Nat
  /-- The model's own: how many reset events there have been (log 2). -/
  resets : Nat
  deriving DecidableEq, Repr

/-- The state after reset (10_state.md R36, 70_reset_and_hazards.md R240): PHASE = IDLE, STATUS = 0, OLEN = 0, nothing
written in any buffer. The spec states no other value: the zeros of the other registers are the model's (DESIGN CHOICE,
log 1), and so are the values of the model's own fields. -/
def State.reset : State where
  cmd := 0
  klen := 0
  dlen := 0
  status := 0
  olen := 0
  phase := 0
  i := 0
  b := 0
  nblk := 0
  wlen := 0
  dir := false
  pad := false
  key := 0
  c := 0
  d := 0
  rk := Vector.replicate 16 0
  l := 0
  r := 0
  keybuf := []
  inbuf := []
  outbuf := []
  hostq := []
  rdata := none
  draws := 0
  resets := 0

end Sys2Proof.Machine
end

