-- ==== Sys2Proof/Machine/Flags.lean ====
section
/-! DEFINITION. STATUS and its fields (10_state.md R29, R31): read by these accessors, written by START, FINISH and the
abort only. -/

namespace Sys2Proof.Machine

/-- The code of an error (60_exceptions.md R210). -/
def ErrorKind.code : ErrorKind → BitVec 3
  | .invalidKeyLength => 1
  | .unalignedData => 2
  | .malformedBitLength => 3
  | .valueTooLarge => 4
  | .padStripError => 5

/-- STATUS[0], BUSY. -/
def State.busy (s : State) : Bool := s.status.getLsbD 0

/-- STATUS[1], DONE. -/
def State.done (s : State) : Bool := s.status.getLsbD 1

/-- STATUS[4:2], ERR. -/
def State.err (s : State) : BitVec 3 := s.status.extractLsb' 2 3

/-- The status word of three field values: ERR, then DONE, then BUSY, most significant first. -/
def mkStatus (busy done : Bool) (err : BitVec 3) : BitVec 5 :=
  err ++ (BitVec.ofBool done ++ BitVec.ofBool busy)

/-- STATUS after START: BUSY <- 1, DONE <- 0, ERR <- 0 (44_block_controller.md R171). -/
def statusStart : BitVec 5 := mkStatus true false 0

/-- STATUS after FINISH: BUSY <- 0, DONE <- 1, ERR as it was (44_block_controller.md R190). -/
def statusFinish (s : State) : BitVec 5 := mkStatus false true s.err

/-- STATUS after an abort: BUSY <- 0, DONE <- 1, ERR <- the code (60_exceptions.md R216). -/
def statusAbort (e : ErrorKind) : BitVec 5 := mkStatus false true e.code

end Sys2Proof.Machine
end

