-- ==== Sys2Proof/Machine/Ops.lean ====
section
/-! DEFINITION. The named operations: the byte buffers, the phases, taking an error (the abort), and START. -/

namespace Sys2Proof.Machine

/-- The byte listed at an address, none where nothing has been written. -/
def Memory.read? : Memory → Nat → Option Byte
  | [], _ => none
  | (k, v) :: rest, a => if a = k then some v else Memory.read? rest a

/-- The buffer with one byte written. -/
def Memory.write : Memory → Nat → Byte → Memory
  | [], a, v => [(a, v)]
  | (k, w) :: rest, a, v =>
    if a < k then (a, v) :: (k, w) :: rest
    else if a = k then (k, v) :: rest
    else (k, w) :: Memory.write rest a v

/-- `MemWrite`: consecutive bytes from an address (00_scope.md R10). -/
def Memory.writeBytes : Memory → Nat → List Byte → Memory
  | m, _, [] => m
  | m, a, v :: vs => Memory.writeBytes (Memory.write m a v) (a + 1) vs

/-- The canonical form: addresses strictly rising. (An unlisted address holds no value, so no entry can repeat it.) -/
def Memory.wf : Memory → Bool
  | [] => true
  | (k, _) :: rest =>
    match rest with
    | [] => true
    | (k', _) :: _ => k < k' && Memory.wf rest

/-- `MemRead` over a byte view: `n` consecutive bytes from an index (00_scope.md R10). -/
def readBytes (view : Nat → Byte) (a n : Nat) : List Byte := (List.range n).map (fun k => view (a + k))

/-- The phase codes (30_encoding.md R84). -/
def phaseIdle : BitVec 4 := 0

/-- KEYCHK's code. -/
def phaseKeychk : BitVec 4 := 1

/-- LENCHK's code. -/
def phaseLenchk : BitVec 4 := 2

/-- KS_PC1's code. -/
def phaseKsPc1 : BitVec 4 := 3

/-- KS_ROUND's code. -/
def phaseKsRound : BitVec 4 := 4

/-- BLK_LOAD's code. -/
def phaseBlkLoad : BitVec 4 := 5

/-- BLK_ROUND's code. -/
def phaseBlkRound : BitVec 4 := 6

/-- BLK_STORE's code. -/
def phaseBlkStore : BitVec 4 := 7

/-- STRIP's code. -/
def phaseStrip : BitVec 4 := 8

/-- FINISH's code. -/
def phaseFinish : BitVec 4 := 9

/-- `raise E` (60_exceptions.md R216): the one way an error is taken. ERR <- the code, BUSY <- 0, DONE <- 1, OLEN <- 0,
PHASE <- IDLE, and nothing else. There is no handler and no return: the next START leaves the error state (R218). -/
def raise (e : ErrorKind) (s : State) : State :=
  { s with status := statusAbort e, olen := 0, phase := phaseIdle }

/-- What START does when BUSY = 0 (44_block_controller.md R171). -/
def startRun (w : BitVec 2) (s : State) : State :=
  { s with
    cmd := w, dir := cmdDir w, pad := cmdPad w
    status := statusStart, olen := 0, phase := phaseKeychk }

/-- START: the host's write of a word to CMD, ignored while BUSY = 1 (44_block_controller.md R171,
70_reset_and_hazards.md R252). -/
def start (w : BitVec 2) (s : State) : State := if s.busy then s else startRun w s

/-- Where a run goes when no block is left: to STRIP for DECP, else to FINISH (44_block_controller.md R183, R186). -/
def phaseAfterBlocks (s : State) : BitVec 4 := if s.pad && s.dir then phaseStrip else phaseFinish

end Sys2Proof.Machine
end

