-- ==== Sys2Proof/Machine/Command.lean ====
section
/-! DEFINITION. The four host commands (44_block_controller.md R173 to R176). Each is the host's write of its word to CMD,
the START event of R171; the micro-operations then compute the run it asks for (R188). -/

namespace Sys2Proof.Machine

/-- ENC: START with 00, Encrypt without pad (R173). -/
def execEnc (s : State) : Host.Outcome State Fault Refusal := .next (start 0b00#2 s)

/-- DEC: START with 01, Decrypt without pad (R174). -/
def execDec (s : State) : Host.Outcome State Fault Refusal := .next (start 0b01#2 s)

/-- ENCP: START with 10, Encrypt with pad (R175). -/
def execEncp (s : State) : Host.Outcome State Fault Refusal := .next (start 0b10#2 s)

/-- DECP: START with 11, Decrypt with pad (R176). -/
def execDecp (s : State) : Host.Outcome State Fault Refusal := .next (start 0b11#2 s)

end Sys2Proof.Machine
end

