-- ==== Sys2Proof/Machine/Bits.lean ====
section
/-! DEFINITION. Bit positions and values (00_scope.md R7 to R9): positions are counted from 1, position 1 is the most
significant bit of the register that holds the sequence. -/

namespace Sys2Proof.Machine

/-- `X(p)`: the bit at position `p` of a register of width `n`, register bit `n - p` (00_scope.md R9). -/
def bitAt {n : Nat} (x : BitVec n) (p : Nat) : Bool := x.getMsbD (p - 1)

/-- `val(X)`: the number whose binary numeral is `X` read left to right (00_scope.md R8). -/
def val (x : BitSeq) : Nat := x.foldl (fun acc b => 2 * acc + b.toNat) 0

/-- `bitsN(v)`: the `n`-bit sequence of a value, `X(p) = (v div 2^(n-p)) mod 2` (00_scope.md R8, 40_bitconverter.md
R102). -/
def bitsN (n v : Nat) : BitSeq := (List.range n).map (fun k => v / 2 ^ (n - (k + 1)) % 2 == 1)

/-- The register of width `n` that holds a sequence (00_scope.md R9). -/
def ofBits (n : Nat) (x : BitSeq) : BitVec n := BitVec.ofNat n (val x)

/-- The sequence a register holds, position 1 first (00_scope.md R9). -/
def toBits {n : Nat} (x : BitVec n) : BitSeq := (List.range n).map (fun k => bitAt x (k + 1))

end Sys2Proof.Machine
end

