-- ==== Sys2Proof/Machine/BitConverter.lean ====
section
/-! DEFINITION. The bit converter BCV (40_bitconverter.md). The three operations on sequences of any length, with their
errors (R100 to R102), and the fixed-width wiring the hardware uses (R104). -/

namespace Sys2Proof.Machine

/-- `textToBits` (R100): eight bits a byte, most significant first, bytes in input order. -/
def textToBits (ys : List Byte) : BitSeq := ys.flatMap (fun y => bitsN 8 y.toNat)

/-- Eight bits a byte; fewer than eight left over are dropped (`bitsToText` refuses such a sequence). -/
def chunkBytes : BitSeq → List Byte
  | b1 :: b2 :: b3 :: b4 :: b5 :: b6 :: b7 :: b8 :: rest =>
    ofBits 8 [b1, b2, b3, b4, b5, b6, b7, b8] :: chunkBytes rest
  | _ => []

/-- `bitsToText` (R101). -/
def bitsToText (x : BitSeq) : Except ErrorKind (List Byte) :=
  if x.length % 8 ≠ 0 then .error .malformedBitLength else .ok (chunkBytes x)

/-- `valueToBinaryString` (R102). -/
def valueToBinaryString (v n : Nat) : Except ErrorKind BitSeq :=
  if 2 ^ n ≤ v then .error .valueTooLarge else .ok (bitsN n v)

/-- The 64-bit register value of eight bytes, `Y[0]*2^56 + .. + Y[7]` (R104, 20_memory.md R54). -/
def wordOfBytes (ys : List Byte) : BlockWord := ofBits 64 (textToBits ys)

/-- The eight bytes of a 64-bit register, the inverse wiring (R104). The length check of `bitsToText` cannot fail on
it (60_exceptions.md R213). -/
def bytesOfWord (x : BlockWord) : List Byte := chunkBytes (toBits x)

end Sys2Proof.Machine
end

