-- ==== Sys2Proof/Machine/Operands.lean ====
section
/-! DEFINITION. Operand assembly (30_encoding.md R83 to R89): the bytes of the key, data and result operands, the TEXT
view, the S-box group decode and the round-key index. -/

namespace Sys2Proof.Machine

/-- A buffer's byte, a free value where none has been written since reset (10_state.md R36, U2; log 2). -/
def byteOr (m : Memory) (resets : Nat) (sp : Space) (a : Nat) : Byte :=
  (Memory.read? m a).getD (Config.unwritten resets sp a)

/-- `KEYBUF[a]`. -/
def keyByte (s : State) (a : Nat) : Byte := byteOr s.keybuf s.resets .keybuf a

/-- `IN[a]`. -/
def inByte (s : State) (a : Nat) : Byte := byteOr s.inbuf s.resets .inbuf a

/-- `OUT[a]`. -/
def outByte (s : State) (a : Nat) : Byte := byteOr s.outbuf s.resets .outbuf a

/-- `TEXT[a]` (20_memory.md R52): IN below DLEN, the pad byte from there below WLEN. Beyond, TEXT has no byte, and no
run reads there (R60): a free value (log 2). -/
def textByte (s : State) (a : Nat) : Byte :=
  if a < s.dlen then inByte s a
  else if a < s.wlen then Config.padByte
  else Config.unwritten s.resets .text a

/-- The key operand `KEYBUF[0 .. KLEN-1]` (30_encoding.md R83). -/
def keyOperand (s : State) : List Byte := readBytes (keyByte s) 0 s.klen

/-- The data operand `IN[0 .. DLEN-1]` (30_encoding.md R83). -/
def dataOperand (s : State) : List Byte := readBytes (inByte s) 0 s.dlen

/-- The result operand `OUT[0 .. OLEN-1]` (30_encoding.md R83). -/
def resultOperand (s : State) : List Byte := readBytes (outByte s) 0 s.olen

/-- The key used: `textToBits(KEYBUF[0..7])` (30_encoding.md R85). -/
def keyWord (s : State) : KeyWord := wordOfBytes (readBytes (keyByte s) 0 Config.keyBytes)

/-- Block `b` of the working text, `textToBits(TEXT[8b .. 8b+7])` (30_encoding.md R86). -/
def textBlock (s : State) (b : Nat) : BlockWord :=
  wordOfBytes (readBytes (textByte s) (Config.blockBytes * b) Config.blockBytes)

/-- The SROM address of S-box group `g` of a 48-bit value: row from the first and last bit, column from the middle four
(30_encoding.md R87, 41_tables.md R121). -/
def sboxAddr (x : BitVec 48) (g : Nat) : BitVec 9 :=
  let bit (j : Nat) : Nat := (bitAt x (6 * g + j)).toNat
  let row := 2 * bit 1 + bit 6
  let col := 8 * bit 2 + 4 * bit 3 + 2 * bit 4 + bit 5
  BitVec.ofNat 9 (64 * g + 16 * row + col)

/-- The round-key index of Feistel round `i`: forward for Encrypt, reverse for Decrypt (30_encoding.md R89). -/
def roundKeyIndex (dir : Bool) (i : Nat) : Nat := if dir then 15 - i else i

/-- The round key of Feistel round `i`. Every caller has `i < 16`, so the default is never read. -/
def roundKeyAt (rk : RoundKeys) (dir : Bool) (i : Nat) : RoundKey := rk[roundKeyIndex dir i]?.getD 0

end Sys2Proof.Machine
end

