-- ==== Sys2Proof/Machine/Controller.lean ====
section
/-! DEFINITION. The micro-operations of the block cipher controller BCC (44_block_controller.md section 3): IDLE, KEYCHK,
LENCHK, BLK_LOAD, BLK_STORE, STRIP, FINISH. -/

namespace Sys2Proof.Machine

/-- IDLE: the engine performs no step (R171). -/
def execIdle (s : State) : Host.Outcome State Fault Refusal := .next s

/-- KEYCHK (R180). -/
def execKeychk (s : State) : Host.Outcome State Fault Refusal :=
  .next <|
    if s.klen < Config.keyBytes then raise .invalidKeyLength s
    else { s with key := keyWord s, phase := phaseLenchk }

/-- LENCHK with the new WLEN known (R181). -/
def setLengths (w : Nat) (s : State) : State :=
  { s with wlen := w, nblk := w / Config.blockBytes, phase := phaseKsPc1 }

/-- LENCHK (R181): pad for ENCP, else refuse a length that is no multiple of 8. -/
def execLenchk (s : State) : Host.Outcome State Fault Refusal :=
  .next <|
    if s.pad && !s.dir then setLengths (s.dlen + (8 - s.dlen % 8)) s
    else if s.dlen % 8 ≠ 0 then raise .unalignedData s
    else setLengths s.dlen s

/-- BLK_LOAD (R184). -/
def execBlkLoad (s : State) : Host.Outcome State Fault Refusal :=
  let x := permute 64 tableIP (textBlock s s.b)
  .next { s with l := x.extractLsb' 32 32, r := x.extractLsb' 0 32, i := 0, phase := phaseBlkRound }

/-- The eight bytes BLK_STORE writes: `bitsToText(PERMUTE(FP, R ++ L))`, R first (R186). -/
def storedBytes (s : State) : List Byte := bytesOfWord (permute 64 tableFP (s.r ++ s.l))

/-- The index BLK_STORE writes them at (R186, 20_memory.md R55). -/
def storeAddr (s : State) : Nat := Config.blockBytes * s.b

/-- BLK_STORE (R186). -/
def execBlkStore (s : State) : Host.Outcome State Fault Refusal :=
  .next { s with
    outbuf := Memory.writeBytes s.outbuf (storeAddr s) (storedBytes s)
    b := s.b + 1
    phase := if s.b + 1 = s.nblk then phaseAfterBlocks s else phaseBlkLoad }

/-- The pad count STRIP reads: the last decrypted byte (R187). -/
def padCount (s : State) : Nat := (outByte s (s.wlen - 1)).toNat

/-- STRIP (R187). -/
def execStrip (s : State) : Host.Outcome State Fault Refusal :=
  .next <|
    if s.wlen = 0 ∨ padCount s = 0 ∨ s.wlen < padCount s then raise .padStripError s
    else { s with olen := s.wlen - padCount s, phase := phaseFinish }

/-- FINISH (R190). -/
def execFinish (s : State) : Host.Outcome State Fault Refusal :=
  .next { s with
    olen := if s.pad && s.dir then s.olen else s.wlen
    status := statusFinish s
    phase := phaseIdle }

end Sys2Proof.Machine
end

