-- ==== Sys2Proof/Machine/Feistel.lean ====
section
/-! DEFINITION. The Feistel round processor FRP (43_feistel_round.md): its functions, and the meaning of BLK_ROUND. -/

namespace Sys2Proof.Machine

/-- `EXPAND(R)` (R151). -/
def expand (r : Half) : BitVec 48 := permute 48 tableE r

/-- `KEYMIX(X1, K)` (R152). -/
def keyMix (x : BitVec 48) (k : RoundKey) : BitVec 48 := x ^^^ k

/-- `SUBST(X2)` (R153): the eight 4-bit ROM entries, group 0 first (30_encoding.md R88). -/
def subst (x : BitVec 48) : Half :=
  ofBits 32 ((List.range 8).flatMap (fun g => toBits (romRead (sboxAddr x g))))

/-- `PBOX(Y)` (R154). -/
def pbox (y : Half) : Half := permute 32 tableP y

/-- `F(R, K)` (R155). -/
def feistelF (r : Half) (k : RoundKey) : Half := pbox (subst (keyMix (expand r) k))

/-- `LMIX(L, Z)` (R156). -/
def lmix (l z : Half) : Half := l ^^^ z

/-- `ROUND(L, R, K)` (R157): both results from the old L and R. -/
def feistelRound (l r : Half) (k : RoundKey) : Half × Half := (r, lmix l (feistelF r k))

/-- BLK_ROUND with I in 0..15 (44_block_controller.md R185). -/
def blkRoundStep (s : State) : State :=
  let i := s.i.toNat
  let out := feistelRound s.l s.r (roundKeyAt s.rk s.dir i)
  { s with
    l := out.1, r := out.2
    i := s.i + 1
    phase := if i + 1 = Config.nRounds then phaseBlkStore else s.phase }

/-- BLK_ROUND (44_block_controller.md R185). With I at 16 or more there is no round key to use (log 9). -/
def execBlkRound (s : State) : Host.Outcome State Fault Refusal :=
  if s.i.toNat < Config.nRounds then .next (blkRoundStep s) else .fault (.roundIndexOutOfRange s.i)

end Sys2Proof.Machine
end

