-- ==== Sys2Proof/Machine/KeySchedule.lean ====
section
/-! DEFINITION. The key schedule engine KSE (42_key_schedule.md): its functions, and the meanings of KS_PC1 and
KS_ROUND. -/

namespace Sys2Proof.Machine

/-- `rotl(X, s)`, circular left rotation (R132). -/
def rotl {n : Nat} (x : BitVec n) (s : Nat) : BitVec n := x.rotateLeft s

/-- `PC1SPLIT(K)` (R133): positions 1..28 of PC-1's output are C, 29..56 are D. -/
def pc1Split (k : KeyWord) : KeyHalf × KeyHalf :=
  let t := permute 56 tablePC1 k
  (t.extractLsb' 28 28, t.extractLsb' 0 28)

/-- The round key of two rotated halves, `PERMUTE(PC2, C' ++ D')` (R134). -/
def pc2Key (c d : KeyHalf) : RoundKey := permute 48 tablePC2 (c ++ d)

/-- C' of `KSROUND(i, C, D)`, and D' of the same rotation (R134). -/
def ksRotate (i : Nat) (x : KeyHalf) : KeyHalf := rotl x (shiftCount i)

/-- `KSROUND(i, C, D)` (R134): the key is made from the rotated halves. -/
def ksRound (i : Nat) (c d : KeyHalf) : KeyHalf × KeyHalf × RoundKey :=
  (ksRotate i c, ksRotate i d, pc2Key (ksRotate i c) (ksRotate i d))

/-- The halves one round on (R134, R135). -/
def ksAdvance (i : Nat) (cd : KeyHalf × KeyHalf) : KeyHalf × KeyHalf := (ksRotate i cd.1, ksRotate i cd.2)

/-- `(C_n, D_n)`: the halves after `n` rounds of `KS(K)` (R135, R136). -/
def halvesAfter (k : KeyWord) : Nat → KeyHalf × KeyHalf
  | 0 => pc1Split k
  | n + 1 => ksAdvance n (halvesAfter k n)

/-- `RK[i]` of `KS(K)` (R135): PC-2 of the halves after round `i`, which are already rotated. -/
def keyOf (k : KeyWord) (i : Nat) : RoundKey :=
  pc2Key (halvesAfter k (i + 1)).1 (halvesAfter k (i + 1)).2

/-- `KS(K)`, the sixteen round keys (R135). -/
def ks (k : KeyWord) : RoundKeys := Vector.ofFn (fun i => keyOf k i.val)

/-- KS_PC1 (44_block_controller.md R182). -/
def execKsPc1 (s : State) : Host.Outcome State Fault Refusal :=
  .next { s with c := (pc1Split s.key).1, d := (pc1Split s.key).2, i := 0, phase := phaseKsRound }

/-- Where KS_ROUND goes after the sixteenth key (44_block_controller.md R183). -/
def phaseAfterKeys (s : State) : BitVec 4 := if 0 < s.nblk then phaseBlkLoad else phaseAfterBlocks s

/-- KS_ROUND with I in 0..15 (44_block_controller.md R183). The sixteenth round also clears B and leaves the phase. -/
def ksRoundStep (s : State) : State :=
  let i := s.i.toNat
  let last := i + 1 = Config.nRounds
  let out := ksRound i s.c s.d
  { s with
    c := out.1, d := out.2.1, rk := s.rk.setIfInBounds i out.2.2
    i := s.i + 1
    b := if last then 0 else s.b
    phase := if last then phaseAfterKeys s else s.phase }

/-- KS_ROUND (44_block_controller.md R183). With I at 16 or more there is no RK[I] to write (log 9). -/
def execKsRound (s : State) : Host.Outcome State Fault Refusal :=
  if s.i.toNat < Config.nRounds then .next (ksRoundStep s) else .fault (.roundIndexOutOfRange s.i)

end Sys2Proof.Machine
end

