-- ==== Sys2Proof/Machine/Dispatch.lean ====
section
/-! DEFINITION. One arm per instruction. -/

namespace Sys2Proof.Machine

def exec (i : Instr) (s : State) : Host.Outcome State Fault Refusal :=
  match i with
  -- host commands (30_encoding.md R82)
  | .enc => Sys2Proof.Machine.execEnc s
  | .dec => Sys2Proof.Machine.execDec s
  | .encp => Sys2Proof.Machine.execEncp s
  | .decp => Sys2Proof.Machine.execDecp s
  -- micro-operations (30_encoding.md R84)
  | .idle => Sys2Proof.Machine.execIdle s
  | .keychk => Sys2Proof.Machine.execKeychk s
  | .lenchk => Sys2Proof.Machine.execLenchk s
  | .ksPc1 => Sys2Proof.Machine.execKsPc1 s
  | .ksRound => Sys2Proof.Machine.execKsRound s
  | .blkLoad => Sys2Proof.Machine.execBlkLoad s
  | .blkRound => Sys2Proof.Machine.execBlkRound s
  | .blkStore => Sys2Proof.Machine.execBlkStore s
  | .strip => Sys2Proof.Machine.execStrip s
  | .finish => Sys2Proof.Machine.execFinish s

end Sys2Proof.Machine
end

