-- ==== Sys2Proof/Machine/HostPort.lean ====
section
/-! DEFINITION. What the host can do beside START (10_state.md R27 to R30, 60_exceptions.md R221, R225,
70_reset_and_hazards.md R240, R251 to R253). -/

namespace Sys2Proof.Machine

/-- The block after a reset event (70_reset_and_hazards.md R240): everything as after reset. The host's pending accesses
and what it has read are the host's and stay; the counters of the free values go on, so that unspecified values
before and after are unrelated (log 13). -/
def resetEvent (s : State) : State :=
  { State.reset with hostq := s.hostq, rdata := s.rdata, draws := s.draws, resets := s.resets + 1 }

/-- A host write of KLEN, ignored while BUSY = 1 (10_state.md R28, 70_reset_and_hazards.md R252). -/
def writeKlen (n : Nat) (s : State) : State := if s.busy then s else { s with klen := n }

/-- A host write of DLEN, ignored while BUSY = 1 (10_state.md R28, 70_reset_and_hazards.md R252). -/
def writeDlen (n : Nat) (s : State) : State := if s.busy then s else { s with dlen := n }

/-- A host read of a register (60_exceptions.md R221). Only `rdata` and the free-value counter change. CMD reads as a
free value (10_state.md R27); OLEN reads 0 while BUSY = 1 (70_reset_and_hazards.md R253; log 11). -/
def readReg (r : HostReg) (s : State) : State :=
  match r with
  | .cmd => { s with rdata := some (Config.cmdRead s.draws).toNat, draws := s.draws + 1 }
  | .klen => { s with rdata := some s.klen }
  | .dlen => { s with rdata := some s.dlen }
  | .status => { s with rdata := some s.status.toNat }
  | .olen => { s with rdata := some (if s.busy then 0 else s.olen) }

/-- OUT[a] is a byte of a result (20_memory.md R58). -/
def State.resultAt (s : State) (a : Nat) : Bool := s.done && s.err == 0 && a < s.olen

/-- A host read of OUT[a]: the byte if it is a result, else a free value (20_memory.md R58, U4; log 4). -/
def readOut (a : Nat) (s : State) : State :=
  if s.resultAt a then { s with rdata := some (outByte s a).toNat }
  else { s with rdata := some (Config.noResult s.draws).toNat, draws := s.draws + 1 }

/-- A host write of KEYBUF[a]: refused while BUSY = 1 (70_reset_and_hazards.md R251, U3; log 5). -/
def writeKeybuf (a : Nat) (v : Byte) (s : State) : Host.Outcome State Fault Refusal :=
  if s.busy then .refused (.bufferWriteWhileBusy .keybuf a)
  else .next { s with keybuf := Memory.write s.keybuf a v }

/-- A host write of IN[a]: refused while BUSY = 1 (70_reset_and_hazards.md R251, U3; log 5). -/
def writeIn (a : Nat) (v : Byte) (s : State) : Host.Outcome State Fault Refusal :=
  if s.busy then .refused (.bufferWriteWhileBusy .inbuf a)
  else .next { s with inbuf := Memory.write s.inbuf a v }

end Sys2Proof.Machine
end

