-- ==== Sys2Proof/Machine/Fetch.lean ====
section
/-! DEFINITION. What the next step is (10_state.md R26, 20_memory.md R63). The engine fetches nothing from a memory: PHASE
names its micro-operation, and a word the host writes to CMD names a command. A pending host access comes first; with
none pending, the engine steps (log 3). -/

namespace Sys2Proof.Machine

/-- The next step: an instruction and the state it runs in, or the outcome of a host access or of a PHASE that names no
micro-operation. -/
inductive Fetched where
  | instr (i : Instr) (s : State)
  | done (o : Host.Outcome State Fault Refusal)

/-- The engine's next micro-operation (30_encoding.md R84; 93_implementation_defined.md U8). -/
def fetchUop (s : State) : Fetched :=
  match decodeUop s.phase with
  | .ok i => .instr i s
  | .error (.undefinedPhase c) => .done (.fault (.undefinedPhase c))

/-- The next step when access `a` is the host's oldest pending one and `s` is the state with it taken off the list. -/
def fetchAct (a : HostAct) (s : State) : Fetched :=
  match a with
  | .writeCmd w => .instr (decodeCmd w) s
  | .writeKlen n => .done (.next (writeKlen n s))
  | .writeDlen n => .done (.next (writeDlen n s))
  | .writeKeybuf k v => .done (writeKeybuf k v s)
  | .writeIn k v => .done (writeIn k v s)
  | .readReg r => .done (.next (readReg r s))
  | .readOut k => .done (.next (readOut k s))
  | .pollDone =>
    if s.done then .done (.next (readReg .status s))
    else fetchUop { s with hostq := .pollDone :: s.hostq }
  | .engineStep => fetchUop s
  | .reset => .done (.next (resetEvent s))

/-- The next step of a state. -/
def fetch (s : State) : Fetched :=
  match s.hostq with
  | [] => fetchUop s
  | a :: rest => fetchAct a { s with hostq := rest }

end Sys2Proof.Machine
end

