-- ==== Sys2Proof/Machine/Step.lean ====
section
/-! DEFINITION. One step: one host access or one micro-operation (44_block_controller.md R172, 92_eei_decisions.md D16). -/

namespace Sys2Proof.Machine

/-- One step. -/
def step (s : State) : Host.Outcome State Fault Refusal :=
  match fetch s with
  | .instr i t => exec i t
  | .done o => o

/-- `s` with the instruction of an opcode-table word as the very next step: a command word as the host's oldest pending
write of CMD, a phase code in PHASE with the engine to step first. A word that is no code changes nothing (logs 3, 14). -/
def State.withFetchWord (s : State) (nbits w : Nat) : State :=
  match tableCode nbits w with
  | some (.cmd w) => { s with hostq := .writeCmd w :: s.hostq }
  | some (.uop c) => { s with hostq := .engineStep :: s.hostq, phase := c }
  | none => s

end Sys2Proof.Machine
end

