-- ==== Sys2Proof/Machine/Run.lean ====
section
/-! DEFINITION. What a whole run computes, as functions (44_block_controller.md R170, R177): the micro-operations do not
use them, the statements compare the two. -/

namespace Sys2Proof.Machine

/-- One round on a pair of halves. -/
def roundPair (lr : Half × Half) (k : RoundKey) : Half × Half := feistelRound lr.1 lr.2 k

/-- The `L` and `R` that BLK_LOAD makes of a block (R177 steps a and b, R184). -/
def loadedHalves (x : BlockWord) : Half × Half :=
  ((permute 64 tableIP x).extractLsb' 32 32, (permute 64 tableIP x).extractLsb' 0 32)

/-- `PERMUTE(FP, R ++ L)`, R first (R177 step d, R186). -/
def blockOutput (lr : Half × Half) : BlockWord := permute 64 tableFP (lr.2 ++ lr.1)

/-- `(L, R)` after `n` rounds of a block (R177 step c). -/
def afterRounds (rk : RoundKeys) (dir : Bool) (lr : Half × Half) : Nat → Half × Half
  | 0 => lr
  | n + 1 => roundPair (afterRounds rk dir lr n) (roundKeyAt rk dir n)

/-- `BLOCK(blk, RK, dir)` on the block as a 64-bit sequence (R177). -/
def blockCipher (rk : RoundKeys) (dir : Bool) (x : BlockWord) : BlockWord :=
  blockOutput (afterRounds rk dir (loadedHalves x) Config.nRounds)

/-- The blocks of a text one after another (R170 steps 4 to 6); a last part shorter than a block has no output. -/
def ecb (rk : RoundKeys) (dir : Bool) : List Byte → List Byte
  | b0 :: b1 :: b2 :: b3 :: b4 :: b5 :: b6 :: b7 :: rest =>
    bytesOfWord (blockCipher rk dir (wordOfBytes [b0, b1, b2, b3, b4, b5, b6, b7])) ++ ecb rk dir rest
  | _ => []

/-- The working text, or the alignment error (R170 step 2). -/
def workingText (data : List Byte) (dir pad : Bool) : Except ErrorKind (List Byte) :=
  if pad && !dir then .ok (data ++ List.replicate (8 - data.length % 8) Config.padByte)
  else if data.length % 8 ≠ 0 then .error .unalignedData
  else .ok data

/-- Pad stripping (R170 step 7). -/
def stripPad (out : List Byte) : Except ErrorKind (List Byte) :=
  match out.getLast? with
  | none => .error .padStripError
  | some v =>
    if v.toNat = 0 ∨ out.length < v.toNat then .error .padStripError
    else .ok (out.take (out.length - v.toNat))

/-- `Run(key, data, dir, pad)` (R170). -/
def run (key data : List Byte) (dir pad : Bool) : Except ErrorKind (List Byte) :=
  if key.length < 8 then .error .invalidKeyLength
  else
    match workingText data dir pad with
    | .error e => .error e
    | .ok text =>
      let out := ecb (ks (wordOfBytes (key.take 8))) dir text
      if pad && dir then stripPad out else .ok out

end Sys2Proof.Machine
end

