-- ==== Sys2Proof/Safety.lean ====
section
/-! DEFINITION. What the claims call a good state: the control invariant, the data invariant of a run, the premise of a
START, and the order of a run's micro-operations. -/

namespace Sys2Proof.Machine

/-- WLEN as LENCHK computes it from DLEN for a command whose length check passes (44_block_controller.md R181). -/
def workingLength (s : State) : Nat := if s.pad && !s.dir then s.dlen + (8 - s.dlen % 8) else s.dlen

/-- Every byte below `n` has been written. -/
def WrittenBelow (m : Memory) (n : Nat) : Prop := ∀ a, a < n → (Memory.read? m a).isSome = true

/-- The premise of a START (93_implementation_defined.md U2, 70_reset_and_hazards.md R241): the bytes the run reads have
been written. The model runs without it, on free bytes. -/
def OperandsWritten (s : State) : Prop :=
  (8 ≤ s.klen → WrittenBelow s.keybuf 8) ∧ WrittenBelow s.inbuf s.dlen

/-- The control invariant: what holds of PHASE, STATUS, the counters and the buffers in every state a run reaches from
reset, whatever the host does. -/
structure Inv (s : State) : Prop where
  /-- The buffers are canonical. -/
  keybufWf : Memory.wf s.keybuf = true
  inbufWf : Memory.wf s.inbuf = true
  outbufWf : Memory.wf s.outbuf = true
  /-- PHASE never takes a value outside 0..9 (10_state.md R26). -/
  phaseDefined : s.phase.toNat ≤ 9
  /-- BUSY says that PHASE is not IDLE (10_state.md R29). -/
  busyIff : s.busy = true ↔ s.phase ≠ phaseIdle
  /-- BUSY and DONE are never both 1 (10_state.md R29). -/
  notBusyDone : ¬(s.busy = true ∧ s.done = true)
  /-- ERR != 0 implies DONE = 1 (10_state.md R29). -/
  errDone : s.err ≠ 0 → s.done = true
  /-- The codes a step writes (60_exceptions.md R210, R213, R214). -/
  errCode : s.err = 0 ∨ s.err = 1 ∨ s.err = 2 ∨ s.err = 5
  /-- OLEN is 0 after a failed run (10_state.md R30). -/
  errOlen : s.err ≠ 0 → s.olen = 0
  /-- OLEN is 0 from START until STRIP or FINISH (10_state.md R30). -/
  busyOlen : s.busy = true → s.phase ≠ phaseFinish → s.olen = 0
  /-- In FINISH of a DECP run OLEN is within the text, in FINISH of another run it is still 0. -/
  finishOlen : s.phase = phaseFinish → if s.pad && s.dir then s.olen ≤ s.wlen else s.olen = 0
  /-- Past KEYCHK the key is long enough (44_block_controller.md R180). -/
  keyLong : 2 ≤ s.phase.toNat → 8 ≤ s.klen
  /-- Past LENCHK the lengths are those of R181, whole blocks. -/
  lengths : 3 ≤ s.phase.toNat → s.wlen = workingLength s ∧ s.wlen = 8 * s.nblk
  /-- A round micro-operation has a round index (44_block_controller.md R183, R185). -/
  roundIndex : s.phase = phaseKsRound ∨ s.phase = phaseBlkRound → s.i.toNat < 16
  /-- BLK_STORE comes after the sixteenth round. -/
  storeIndex : s.phase = phaseBlkStore → s.i.toNat = 16
  /-- A block micro-operation has a block (44_block_controller.md R184), and the earlier blocks are in OUT. -/
  blockIndex : 5 ≤ s.phase.toNat → s.phase.toNat ≤ 7 → s.b < s.nblk ∧ WrittenBelow s.outbuf (8 * s.b)
  /-- STRIP is reached only with PAD = 1 and DIR = 1 (44_block_controller.md R187). -/
  stripOnly : s.phase = phaseStrip → s.pad = true ∧ s.dir = true
  /-- Past the blocks all of OUT is written. -/
  allStored : 8 ≤ s.phase.toNat → WrittenBelow s.outbuf s.wlen
  /-- A result's bytes have been written (20_memory.md R58). -/
  resultWritten : s.done = true → s.err = 0 → WrittenBelow s.outbuf s.olen

/-- Block `j` of OUT, as a 64-bit sequence. -/
def outBlock (s : State) (j : Nat) : BlockWord := wordOfBytes (readBytes (outByte s) (8 * j) 8)

/-- The data invariant: in every phase of a run the datapath registers and OUT hold what `Run` computes up to there
(44_block_controller.md R170, R177, R188; 42_key_schedule.md R135, R136). -/
structure DataInv (s : State) : Prop where
  /-- KEY is the first eight bytes of KEYBUF (10_state.md R21). -/
  key : 2 ≤ s.phase.toNat → s.key = keyWord s
  /-- In KS_ROUND, C and D are the halves after I rounds and the first I round keys are made. -/
  schedule : s.phase = phaseKsRound →
    (s.c, s.d) = halvesAfter s.key s.i.toNat ∧ ∀ j, j < s.i.toNat → s.rk[j]? = some (keyOf s.key j)
  /-- No block is touched before the sixteen keys are complete (70_reset_and_hazards.md R255). -/
  keys : 5 ≤ s.phase.toNat → s.rk = ks s.key
  /-- In BLK_ROUND and BLK_STORE, L and R are the halves of block B after I rounds. -/
  rounds : s.phase = phaseBlkRound ∨ s.phase = phaseBlkStore →
    (s.l, s.r) = afterRounds s.rk s.dir (loadedHalves (textBlock s s.b)) s.i.toNat
  /-- The blocks below B are done. -/
  stored : 5 ≤ s.phase.toNat → s.phase.toNat ≤ 7 →
    ∀ j, j < s.b → outBlock s j = blockCipher s.rk s.dir (textBlock s j)
  /-- In STRIP and FINISH all blocks are done. -/
  storedAll : 8 ≤ s.phase.toNat →
    ∀ j, j < s.nblk → outBlock s j = blockCipher s.rk s.dir (textBlock s j)

/-- The micro-operations of a successful run after START, in order, by phase code (44_block_controller.md R172). -/
def runTrace (nblk : Nat) (strip : Bool) : List (BitVec 4) :=
  [phaseKeychk, phaseLenchk, phaseKsPc1] ++ (List.replicate 16 phaseKsRound ++
    ((List.replicate nblk (phaseBlkLoad :: (List.replicate 16 phaseBlkRound ++ [phaseBlkStore]))).flatten ++
      ((if strip then [phaseStrip] else []) ++ [phaseFinish])))

/-- The state as the host starts a run: START with word `w` is the one pending access. -/
def State.starting (s : State) (w : BitVec 2) : State := { s with hostq := [.writeCmd w] }

/-- `n` steps of the machine. -/
def steps (n : Nat) (s : State) : Host.Outcome State Fault Refusal := Host.Core.run Sys2Proof.core n s

end Sys2Proof.Machine
end

