-- ==== Sys2Proof/Certificates/Slice0/Obligations.lean ====
section
/-! DEFINITION. The statements for the provers, in the order of spec/. Each docstring names the rules it formalises. -/

open Sys2Proof Sys2Proof.Machine

/-! ## Encoding and fetch -/

/-- The code words written out in 30_encoding.md R82 and R84 decode to their instructions. -/
def Obligations.SpecWordsDecode : Prop :=
  decode (.cmd 0b00#2) = .ok .enc ∧ decode (.cmd 0b01#2) = .ok .dec ∧
  decode (.cmd 0b10#2) = .ok .encp ∧ decode (.cmd 0b11#2) = .ok .decp ∧
  decode (.uop 0b0000#4) = .ok .idle ∧ decode (.uop 0b0001#4) = .ok .keychk ∧
  decode (.uop 0b0100#4) = .ok .ksRound ∧ decode (.uop 0b0110#4) = .ok .blkRound ∧
  decode (.uop 0b1001#4) = .ok .finish

/-- Decoding inverts encoding in both directions, and exactly the codes that name no operation are refused
(30_encoding.md R82, R84, R90). -/
def Obligations.DecodeInvertsEncode : Prop :=
  (∀ i : Instr, i.wf = true → decode (encode i) = .ok i) ∧
  (∀ (c : Code) (i : Instr), decode c = .ok i → encode i = c) ∧
  (∀ c : Code, c.wf = false ↔ ∃ e, decode c = .error e)

/-- One step runs the decoded instruction: the micro-operation PHASE names when the host has nothing pending, leaves the
engine a step or polls a run that is not done; the command whose word the host writes to CMD. Around `exec` a step only
takes the host's entry off its list. The host's list is the model's own (log 3). -/
def Obligations.StepRunsDecodedInstruction : Prop :=
  (∀ (s : State) (i : Instr), s.hostq = [] → decode (.uop s.phase) = .ok i → step s = exec i s) ∧
  (∀ (s : State) (i : Instr) (q : List HostAct), s.hostq = .engineStep :: q → decode (.uop s.phase) = .ok i →
    step s = exec i { s with hostq := q }) ∧
  (∀ (s : State) (i : Instr) (q : List HostAct), s.hostq = .pollDone :: q → s.done = false →
    decode (.uop s.phase) = .ok i → step s = exec i s) ∧
  (∀ (s : State) (w : BitVec 2) (i : Instr) (q : List HostAct), s.hostq = .writeCmd w :: q →
    decode (.cmd w) = .ok i → step s = exec i { s with hostq := q })

/-- A PHASE value 10 to 15 leaves the engine stuck (93_implementation_defined.md U8, log 8): the model's choice of a
fault for the spec's "stuck". -/
def Obligations.UndefinedPhaseIsStuck : Prop :=
  ∀ s : State, 10 ≤ s.phase.toNat → s.hostq = [] → step s = .fault (.undefinedPhase s.phase)

/-! ## Commands and micro-operations -/

/-- START (44_block_controller.md R171): ENC, DEC, ENCP and DECP with BUSY = 0 latch DIR and PAD, set BUSY, clear DONE,
ERR and OLEN and go to KEYCHK; with BUSY = 1 they do nothing at all; IDLE is no step; nothing but a host write of CMD
takes the engine out of IDLE. -/
def Obligations.StartEffect : Prop :=
  (∀ (i : Instr) (w : BitVec 2) (s : State), encode i = .cmd w → s.busy = false →
    ∃ t, exec i s = .next t ∧ t.dir = w.getLsbD 0 ∧ t.pad = w.getLsbD 1 ∧
      t.busy = true ∧ t.done = false ∧ t.err = 0 ∧
      t = { s with cmd := w, dir := t.dir, pad := t.pad, status := t.status, olen := 0, phase := 0b0001#4 }) ∧
  (∀ (i : Instr) (w : BitVec 2) (s : State), encode i = .cmd w → s.busy = true → exec i s = .next s) ∧
  (∀ s : State, exec .idle s = .next s) ∧
  (∀ s t : State, s.phase = 0b0000#4 → step s = .next t → t.phase ≠ 0b0000#4 →
    ∃ w q, s.hostq = .writeCmd w :: q)

/-- KEYCHK (44_block_controller.md R180): with KLEN at 8 or more KEY is KEYBUF[0..7], most significant bit of each byte
first; below 8 the run aborts with code 1 and KEY is not written. -/
def Obligations.KeychkEffect : Prop :=
  ∀ s : State,
    (8 ≤ s.klen → ∃ t, exec .keychk s = .next t ∧
      (∀ k j, k < 8 → 1 ≤ j → j ≤ 8 → bitAt t.key (8 * k + j) = (keyByte s k).getLsbD (8 - j)) ∧
      t = { s with key := t.key, phase := 0b0010#4 }) ∧
    (s.klen < 8 → ∃ t, exec .keychk s = .next t ∧ t.err = 1 ∧ t.busy = false ∧ t.done = true ∧
      t = { s with status := t.status, olen := 0, phase := 0b0000#4 })

/-- LENCHK (44_block_controller.md R181). -/
def Obligations.LenchkEffect : Prop :=
  ∀ s : State,
    (s.pad = true → s.dir = false → exec .lenchk s = .next { s with
      wlen := s.dlen + (8 - s.dlen % 8), nblk := (s.dlen + (8 - s.dlen % 8)) / 8, phase := 0b0011#4 }) ∧
    (¬(s.pad = true ∧ s.dir = false) → s.dlen % 8 = 0 → exec .lenchk s = .next { s with
      wlen := s.dlen, nblk := s.dlen / 8, phase := 0b0011#4 }) ∧
    (¬(s.pad = true ∧ s.dir = false) → s.dlen % 8 ≠ 0 → ∃ t, exec .lenchk s = .next t ∧
      t.err = 2 ∧ t.busy = false ∧ t.done = true ∧
      t = { s with status := t.status, olen := 0, phase := 0b0000#4 })

/-- KS_PC1 (44_block_controller.md R182, 42_key_schedule.md R133): C and D are positions 1..28 and 29..56 of PC-1 applied
to KEY. -/
def Obligations.KsPc1Effect : Prop :=
  ∀ s : State, ∃ t, exec .ksPc1 s = .next t ∧
    (∀ p, 1 ≤ p → p ≤ 28 → bitAt t.c p = bitAt s.key (tablePC1.getD (p - 1) 0) ∧
      bitAt t.d p = bitAt s.key (tablePC1.getD (28 + p - 1) 0)) ∧
    t = { s with c := t.c, d := t.d, i := 0, phase := 0b0100#4 }

/-- KS_ROUND with I = i in 0..15 (44_block_controller.md R183, 42_key_schedule.md R134): both halves rotate left by
SHIFT[i], RK[i] is PC-2 of the rotated halves, the other entries stay; the sixteenth round clears B and leaves. -/
def Obligations.KsRoundEffect : Prop :=
  ∀ (s : State) (i n : Nat), s.i.toNat = i → i < 16 →
    n = [1, 1, 2, 2, 2, 2, 2, 2, 1, 2, 2, 2, 2, 2, 2, 1].getD i 0 →
    ∃ t, exec .ksRound s = .next t ∧
      (∀ p, 1 ≤ p → p ≤ 28 → bitAt t.c p = bitAt s.c ((p - 1 + n) % 28 + 1) ∧
        bitAt t.d p = bitAt s.d ((p - 1 + n) % 28 + 1)) ∧
      (∃ k, t.rk[i]? = some k ∧ ∀ p, 1 ≤ p → p ≤ 48 → bitAt k p =
        if tablePC2.getD (p - 1) 0 ≤ 28 then bitAt t.c (tablePC2.getD (p - 1) 0)
        else bitAt t.d (tablePC2.getD (p - 1) 0 - 28)) ∧
      (∀ j, j ≠ i → t.rk[j]? = s.rk[j]?) ∧
      t.i.toNat = i + 1 ∧
      t = { s with
        c := t.c, d := t.d, rk := t.rk, i := t.i
        b := if i = 15 then 0 else s.b
        phase := if i = 15 then
            (if 0 < s.nblk then 0b0101#4 else if s.pad = true ∧ s.dir = true then 0b1000#4 else 0b1001#4)
          else s.phase }

/-- BLK_LOAD (44_block_controller.md R184): L and R are the halves of IP applied to the eight bytes TEXT[8B..8B+7]. -/
def Obligations.BlkLoadEffect : Prop :=
  ∀ s : State, ∃ t, exec .blkLoad s = .next t ∧
    (∀ p q, 1 ≤ p → p ≤ 64 → q = tableIP.getD (p - 1) 0 →
      (if p ≤ 32 then bitAt t.l p else bitAt t.r (p - 32)) =
        (textByte s (8 * s.b + (q - 1) / 8)).getLsbD (7 - (q - 1) % 8)) ∧
    t = { s with l := t.l, r := t.r, i := 0, phase := 0b0110#4 }

/-- BLK_ROUND with I = i in 0..15 (44_block_controller.md R185, 43_feistel_round.md R157, 30_encoding.md R89): one swap,
the new right half from the old halves and RK[i] or RK[15-i]. -/
def Obligations.BlkRoundEffect : Prop :=
  ∀ (s : State) (i : Nat), s.i.toNat = i → i < 16 →
    ∃ t k, exec .blkRound s = .next t ∧ s.rk[if s.dir = true then 15 - i else i]? = some k ∧
      t.l = s.r ∧ t.r = s.l ^^^ feistelF s.r k ∧ t.i.toNat = i + 1 ∧
      t = { s with l := t.l, r := t.r, i := t.i, phase := if i = 15 then 0b0111#4 else s.phase }

/-- BLK_STORE (44_block_controller.md R186): the eight bytes of FP applied to R ++ L go to OUT at the store address, 8B;
every other byte of OUT, written or not, stays. -/
def Obligations.BlkStoreEffect : Prop :=
  ∀ s : State, storeAddr s = 8 * s.b ∧ ∃ t, exec .blkStore s = .next t ∧
    (∀ k j, k < 8 → 1 ≤ j → j ≤ 8 → ∃ v, Memory.read? t.outbuf (storeAddr s + k) = some v ∧
      v.getLsbD (8 - j) = bitAt (s.r ++ s.l) (tableFP.getD (8 * k + j - 1) 0)) ∧
    (∀ a, a < storeAddr s ∨ storeAddr s + 8 ≤ a → Memory.read? t.outbuf a = Memory.read? s.outbuf a) ∧
    t = { s with
      outbuf := t.outbuf, b := s.b + 1
      phase := if s.b + 1 = s.nblk then (if s.pad = true ∧ s.dir = true then 0b1000#4 else 0b1001#4) else 0b0101#4 }

/-- STRIP (44_block_controller.md R187, 60_exceptions.md R215): with n the last decrypted byte, OLEN is WLEN - n for n in
1..WLEN, whatever bytes that drops; WLEN = 0, n = 0 and n > WLEN abort with code 5. OUT is not modified. -/
def Obligations.StripEffect : Prop :=
  ∀ (s : State) (n : Nat), n = (outByte s (s.wlen - 1)).toNat →
    (1 ≤ n → n ≤ s.wlen → exec .strip s = .next { s with olen := s.wlen - n, phase := 0b1001#4 }) ∧
    (s.wlen = 0 ∨ n = 0 ∨ s.wlen < n → ∃ t, exec .strip s = .next t ∧
      t.err = 5 ∧ t.busy = false ∧ t.done = true ∧
      t = { s with status := t.status, olen := 0, phase := 0b0000#4 })

/-- FINISH (44_block_controller.md R190). -/
def Obligations.FinishEffect : Prop :=
  ∀ s : State, ∃ t, exec .finish s = .next t ∧ t.busy = false ∧ t.done = true ∧ t.err = s.err ∧
    t = { s with
      olen := if s.pad = true ∧ s.dir = true then s.olen else s.wlen
      status := t.status, phase := 0b0000#4 }

/-- With I at 16 or more KS_ROUND and BLK_ROUND stop by name: the model's choice where no entry RK[I] exists (log 9). -/
def Obligations.RoundIndexStops : Prop :=
  ∀ s : State, 16 ≤ s.i.toNat →
    exec .ksRound s = .fault (.roundIndexOutOfRange s.i) ∧ exec .blkRound s = .fault (.roundIndexOutOfRange s.i)

/-- The TEXT view (20_memory.md R52): after LENCHK passes, TEXT is IN below DLEN and 0x20 from there below WLEN; 1 to 8 pad
bytes for Encrypt with PAD = 1 and none otherwise; IN is not modified. -/
def Obligations.TextViewPads : Prop :=
  ∀ s t : State, exec .lenchk s = .next t → t.phase = 0b0011#4 →
    t.inbuf = s.inbuf ∧
    (∀ a, a < t.dlen → textByte t a = inByte s a) ∧
    (∀ a, t.dlen ≤ a → a < t.wlen → textByte t a = 0x20) ∧
    (if t.pad = true ∧ t.dir = false then t.dlen + 1 ≤ t.wlen ∧ t.wlen ≤ t.dlen + 8 else t.wlen = t.dlen)

/-! ## Errors and flags -/

/-- `raise` (60_exceptions.md R216), for each error a step raises: the code in ERR, BUSY 0, DONE 1, OLEN 0, PHASE IDLE, and
nothing else of the step's own writes, so KEY, C, D, RK, L, R, I, B, WLEN, NBLK and OUT keep what they held. -/
def Obligations.AbortEffect : Prop :=
  ∀ (s : State) (i : Instr) (c : BitVec 3),
    ((i = .keychk ∧ s.klen < 8 ∧ c = 1) ∨
      (i = .lenchk ∧ s.dlen % 8 ≠ 0 ∧ ¬(s.pad = true ∧ s.dir = false) ∧ c = 2) ∨
      (i = .strip ∧ (s.wlen = 0 ∨ (outByte s (s.wlen - 1)).toNat = 0 ∨ s.wlen < (outByte s (s.wlen - 1)).toNat) ∧
        c = 5)) →
    ∃ t, exec i s = .next t ∧ t.err = c ∧ t.busy = false ∧ t.done = true ∧
      t = { s with status := t.status, olen := 0, phase := 0b0000#4 }

/-- The two internal-invariant errors cannot be raised (60_exceptions.md R213, R214): `bitsToText` succeeds on every 64-bit
word and `bits4` on every S-box entry, and no instruction writes code 3, 4, 6 or 7. -/
def Obligations.InternalErrorsUnreachable : Prop :=
  (∀ x : BlockWord, bitsToText (toBits x) = .ok (bytesOfWord x)) ∧
  (∀ a : BitVec 9, valueToBinaryString (romRead a).toNat 4 = .ok (toBits (romRead a))) ∧
  (∀ (i : Instr) (s t : State), exec i s = .next t →
    t.err = s.err ∨ t.err = 0 ∨ t.err = 1 ∨ t.err = 2 ∨ t.err = 5)

/-- Only START, FINISH and the abort write STATUS (10_state.md R31): another instruction leaves it, and KEYCHK, LENCHK and
STRIP change it only by ending the run. -/
def Obligations.StatusWriters : Prop :=
  ∀ (i : Instr) (s t : State), exec i s = .next t → t.status ≠ s.status →
    (∃ w, encode i = .cmd w ∧ s.busy = false) ∨ i = .finish ∨
    ((i = .keychk ∨ i = .lenchk ∨ i = .strip) ∧ t.err ≠ 0 ∧ t.done = true ∧ t.busy = false ∧
      t.phase = 0b0000#4 ∧ t.olen = 0)

/-- Who writes what (10_state.md R34): each register and buffer changes only under the instructions the access table
names, and no instruction changes KLEN, DLEN, KEYBUF, IN or what belongs to the host. -/
def Obligations.RegisterWriters : Prop :=
  ∀ (i : Instr) (s t : State), exec i s = .next t →
    (t.key ≠ s.key → i = .keychk) ∧
    (t.c ≠ s.c ∨ t.d ≠ s.d → i = .ksPc1 ∨ i = .ksRound) ∧
    (t.rk ≠ s.rk → i = .ksRound) ∧
    (t.l ≠ s.l ∨ t.r ≠ s.r → i = .blkLoad ∨ i = .blkRound) ∧
    (t.i ≠ s.i → i = .ksPc1 ∨ i = .ksRound ∨ i = .blkLoad ∨ i = .blkRound) ∧
    (t.b ≠ s.b → i = .ksRound ∨ i = .blkStore) ∧
    (t.wlen ≠ s.wlen ∨ t.nblk ≠ s.nblk → i = .lenchk) ∧
    (t.outbuf ≠ s.outbuf → i = .blkStore) ∧
    (t.olen ≠ s.olen → (∃ w, encode i = .cmd w) ∨ i = .strip ∨ i = .finish ∨
      ((i = .keychk ∨ i = .lenchk) ∧ t.err ≠ 0)) ∧
    (t.dir ≠ s.dir ∨ t.pad ≠ s.pad ∨ t.cmd ≠ s.cmd → ∃ w, encode i = .cmd w) ∧
    t.klen = s.klen ∧ t.dlen = s.dlen ∧ t.keybuf = s.keybuf ∧ t.inbuf = s.inbuf ∧
    t.hostq = s.hostq ∧ t.rdata = s.rdata ∧ t.draws = s.draws ∧ t.resets = s.resets

/-! ## The functions -/

/-- `PERMUTE(T, X)` (41_tables.md R110): `Y(p) = X(T(p))`, for every table of positions of X. -/
def Obligations.PermutePositions : Prop :=
  ∀ (n m : Nat) (t : List Nat) (x : BitVec n), tableOk n m t = true →
    ∀ p, 1 ≤ p → p ≤ m → bitAt (permute m t x) p = bitAt x (t.getD (p - 1) 0)

/-- FP is the inverse of IP (41_tables.md R112), as tables and as permutations of every 64-bit value. -/
def Obligations.InitialPermutationInverse : Prop :=
  (∀ p, 1 ≤ p → p ≤ 64 → tableFP.getD (tableIP.getD (p - 1) 0 - 1) 0 = p) ∧
  (∀ x : BlockWord, permute 64 tableIP (permute 64 tableFP x) = x) ∧
  (∀ x : BlockWord, permute 64 tableFP (permute 64 tableIP x) = x)

/-- Every row of every S-box holds each of 0..15 exactly once, and every entry fits four bits, so `bits4` never fails
(41_tables.md R122). -/
def Obligations.SboxRowsArePermutations : Prop :=
  (∀ g row : Nat, g < 8 → row < 4 →
    ((List.range 16).map (fun col => romRead (BitVec.ofNat 9 (64 * g + 16 * row + col)))).Perm
      ((List.range 16).map (BitVec.ofNat 4))) ∧
  (∀ a : BitVec 9, (romRead a).toNat ≤ 15 ∧ ∃ x, valueToBinaryString (romRead a).toNat 4 = .ok x)

/-- `rotl` (42_key_schedule.md R132): positions, the sequence form, the register value for 28 bits, composition, the
full turn, and the number of one bits. -/
def Obligations.RotlLaws : Prop :=
  (∀ (n s p : Nat) (x : BitVec n), s ≤ n → 1 ≤ p → p ≤ n → bitAt (rotl x s) p = bitAt x ((p - 1 + s) % n + 1)) ∧
  (∀ (n s : Nat) (x : BitVec n), s ≤ n → toBits (rotl x s) = (toBits x).drop s ++ (toBits x).take s) ∧
  (∀ (s : Nat) (x : BitVec 28), s ≤ 28 →
    (rotl x s).toNat = x.toNat * 2 ^ s % 2 ^ 28 + x.toNat / 2 ^ (28 - s)) ∧
  (∀ (n a b : Nat) (x : BitVec n), a ≤ n → b ≤ n → rotl (rotl x a) b = rotl x ((a + b) % n)) ∧
  (∀ (n : Nat) (x : BitVec n), rotl x n = x) ∧
  (∀ (n s : Nat) (x : BitVec n), s ≤ n → (toBits (rotl x s)).count true = (toBits x).count true)

/-- The bit converter's three operations position by position (40_bitconverter.md R100, R101, R102): results, lengths and
exactly when they fail. -/
def Obligations.BitConverterPositions : Prop :=
  (∀ ys : List Byte, (textToBits ys).length = 8 * ys.length ∧
    ∀ k j, k < ys.length → 1 ≤ j → j ≤ 8 →
      (textToBits ys).getD (8 * k + j - 1) false = ((ys.getD k 0).toNat / 2 ^ (8 - j) % 2 == 1)) ∧
  (∀ x : BitSeq, x.length % 8 ≠ 0 → bitsToText x = .error .malformedBitLength) ∧
  (∀ x : BitSeq, x.length % 8 = 0 → ∃ ys, bitsToText x = .ok ys ∧ ys.length = x.length / 8 ∧
    ∀ k, k < ys.length → (ys.getD k 0).toNat = val ((x.drop (8 * k)).take 8)) ∧
  (∀ v n : Nat, 1 ≤ n → 2 ^ n ≤ v → valueToBinaryString v n = .error .valueTooLarge) ∧
  (∀ v n : Nat, 1 ≤ n → v < 2 ^ n → ∃ x, valueToBinaryString v n = .ok x ∧ x.length = n ∧ val x = v ∧
    ∀ p, 1 ≤ p → p ≤ n → x.getD (p - 1) false = (v / 2 ^ (n - p) % 2 == 1))

/-- The inverse laws of the bit converter (40_bitconverter.md R103). -/
def Obligations.BitConverterInverse : Prop :=
  (∀ ys : List Byte, bitsToText (textToBits ys) = .ok ys) ∧
  (∀ x : BitSeq, x.length % 8 = 0 → ∃ ys, bitsToText x = .ok ys ∧ textToBits ys = x) ∧
  (∀ n v : Nat, v < 2 ^ n → val (bitsN n v) = v) ∧
  (∀ x : BitSeq, bitsN x.length (val x) = x)

/-- Parity independence (42_key_schedule.md R131): keys that agree at every position not a multiple of 8 have the same
sixteen round keys, and so are the same cipher. -/
def Obligations.ParityIndependence : Prop :=
  ∀ k k' : KeyWord, (∀ p, 1 ≤ p → p ≤ 64 → p % 8 ≠ 0 → bitAt k p = bitAt k' p) →
    ks k = ks k' ∧ ∀ (dir : Bool) (x : BlockWord), blockCipher (ks k) dir x = blockCipher (ks k') dir x

/-- Cumulative rotation (42_key_schedule.md R136): the halves after n rounds are C_0 and D_0 rotated by the sum of the
first n counts, RK[n-1] is PC-2 of them, and after sixteen rounds the halves are back. -/
def Obligations.CumulativeRotation : Prop :=
  ∀ k : KeyWord,
    (∀ n, n ≤ 16 → halvesAfter k n =
      (rotl (pc1Split k).1 ((tableShift.take n).sum), rotl (pc1Split k).2 ((tableShift.take n).sum))) ∧
    (∀ n, 1 ≤ n → n ≤ 16 → (ks k)[n - 1]? = some
      (permute 48 tablePC2 ((halvesAfter k n).1 ++ (halvesAfter k n).2))) ∧
    (List.range 16).map (fun n => (tableShift.take (n + 1)).sum) =
      [1, 2, 4, 6, 8, 10, 12, 14, 15, 17, 19, 21, 23, 25, 27, 28] ∧
    halvesAfter k 16 = pc1Split k

/-- Degenerate keys (42_key_schedule.md R139): halves that are each all zeros or all ones give sixteen equal round keys,
for which Encrypt and Decrypt are one function; the four keys listed have such halves. -/
def Obligations.DegenerateKeys : Prop :=
  (∀ k : KeyWord, ((pc1Split k).1 = 0 ∨ (pc1Split k).1 = BitVec.allOnes 28) →
    ((pc1Split k).2 = 0 ∨ (pc1Split k).2 = BitVec.allOnes 28) →
    (∀ i, i < 16 → (ks k)[i]? = (ks k)[0]?) ∧
    ∀ x : BlockWord, blockCipher (ks k) false x = blockCipher (ks k) true x) ∧
  (∀ k : KeyWord, k ∈ [0x0101010101010101#64, 0xFEFEFEFEFEFEFEFE#64, 0xE0E0E0E0F1F1F1F1#64, 0x1F1F1F1F0E0E0E0E#64] →
    ((pc1Split k).1 = 0 ∨ (pc1Split k).1 = BitVec.allOnes 28) ∧
    ((pc1Split k).2 = 0 ∨ (pc1Split k).2 = BitVec.allOnes 28))

/-- The Feistel stages (43_feistel_round.md R151 to R154) position by position: the expansion by its cyclic groups, the key
mix, each S-box output by row and column, the P-box. -/
def Obligations.FeistelStages : Prop :=
  (∀ (r : Half) (g j : Nat), g < 8 → 1 ≤ j → j ≤ 6 →
    bitAt (expand r) (6 * g + j) = bitAt r ((4 * g + j + 30) % 32 + 1)) ∧
  (∀ (x : BitVec 48) (k : RoundKey) (p : Nat), 1 ≤ p → p ≤ 48 → (bitAt (keyMix x k) p).toNat =
    ((bitAt x p).toNat + (bitAt k p).toNat) % 2) ∧
  (∀ (x : BitVec 48) (g j row col : Nat), g < 8 → 1 ≤ j → j ≤ 4 →
    row = 2 * (bitAt x (6 * g + 1)).toNat + (bitAt x (6 * g + 6)).toNat →
    col = 8 * (bitAt x (6 * g + 2)).toNat + 4 * (bitAt x (6 * g + 3)).toNat + 2 * (bitAt x (6 * g + 4)).toNat +
      (bitAt x (6 * g + 5)).toNat →
    bitAt (subst x) (4 * g + j) = bitAt (sbox g row col) j) ∧
  (∀ (y : Half) (p : Nat), 1 ≤ p → p ≤ 32 → bitAt (pbox y) p = bitAt y (tableP.getD (p - 1) 0))

/-- Invertibility of a round (43_feistel_round.md R158): for every key the round is a bijection of the pair of halves, the
old halves are recovered from the new, and swap, round, swap, round is the identity. -/
def Obligations.RoundInvertible : Prop :=
  ∀ k : RoundKey,
    Function.Bijective (fun p : Half × Half => feistelRound p.1 p.2 k) ∧
    (∀ l r : Half, r = (feistelRound l r k).1 ∧
      l = (feistelRound l r k).2 ^^^ feistelF (feistelRound l r k).1 k) ∧
    ∀ l r : Half, (feistelRound (feistelRound l r k).2 (feistelRound l r k).1 k).swap = (l, r)

/-- A block decrypted under the keys it was encrypted with is the block, and the other way round, for any sixteen keys
(44_block_controller.md R177, R178). -/
def Obligations.BlockRoundTrip : Prop :=
  ∀ (rk : RoundKeys) (x : BlockWord),
    blockCipher rk true (blockCipher rk false x) = x ∧ blockCipher rk false (blockCipher rk true x) = x

/-- Complementation: complementing key and block complements the result (95_test_vectors.md section 4.3). -/
def Obligations.Complementation : Prop :=
  ∀ (k : KeyWord) (dir : Bool) (x : BlockWord),
    blockCipher (ks (~~~k)) dir (~~~x) = ~~~(blockCipher (ks k) dir x)

/-! ## What a run computes -/

/-- When each command fails and how long its result is (44_block_controller.md R170, R173 to R176). -/
def Obligations.CommandOutcomes : Prop :=
  ∀ key data : List Byte,
    (key.length < 8 → ∀ dir pad, run key data dir pad = .error .invalidKeyLength) ∧
    (8 ≤ key.length → data.length % 8 ≠ 0 → ∀ dir pad, ¬(pad = true ∧ dir = false) →
      run key data dir pad = .error .unalignedData) ∧
    (8 ≤ key.length → data.length % 8 = 0 → ∀ dir, ∃ out, run key data dir false = .ok out ∧
      out.length = data.length) ∧
    (8 ≤ key.length → ∃ out, run key data false true = .ok out ∧ out.length = 8 * (data.length / 8) + 8) ∧
    (8 ≤ key.length → data.length % 8 = 0 → ∃ out, run key data true false = .ok out ∧
      (out = [] → run key data true true = .error .padStripError) ∧
      (∀ v : Byte, out.getLast? = some v → run key data true true =
        if 1 ≤ v.toNat ∧ v.toNat ≤ out.length then .ok (out.take (out.length - v.toNat))
        else .error .padStripError))

/-- Blocks are independent (20_memory.md R62, 44_block_controller.md R177): output block b of a run without pad depends
only on the round keys, the direction and input block b. -/
def Obligations.BlocksIndependent : Prop :=
  ∀ (key data out : List Byte) (dir : Bool), run key data dir false = .ok out →
    ∀ b, 8 * b < data.length → (out.drop (8 * b)).take 8 =
      bytesOfWord (blockCipher (ks (wordOfBytes (key.take 8))) dir (wordOfBytes ((data.drop (8 * b)).take 8)))

/-- The round trip without padding (44_block_controller.md R178). -/
def Obligations.RunRoundTrip : Prop :=
  ∀ (key data : List Byte) (dir : Bool), 8 ≤ key.length → data.length % 8 = 0 →
    ∃ out, run key data dir false = .ok out ∧ run key out (!dir) false = .ok data

/-- The padding laws (44_block_controller.md R179): ENCP lengthens by 1 to 8; DEC of it returns data and pad bytes; DECP of
it never returns the data: it fails below 32 bytes and otherwise drops the last 32. DECP returns `data` exactly when the
decrypted text is `data` and a tail that ends in a byte equal to the tail's length. -/
def Obligations.PaddingLaws : Prop :=
  ∀ key : List Byte, 8 ≤ key.length →
    (∀ data : List Byte, ∃ (out : List Byte) (n : Nat), run key data false true = .ok out ∧ 1 ≤ n ∧ n ≤ 8 ∧
      out.length = data.length + n ∧
      run key out true false = .ok (data ++ List.replicate n 0x20) ∧
      run key out true true = (if 32 ≤ out.length then .ok (data.take (out.length - 32)) else .error .padStripError) ∧
      run key out true true ≠ .ok data) ∧
    (∀ c data : List Byte, run key c true true = .ok data ↔
      ∃ (tail : List Byte) (v : Byte), run key c true false = .ok (data ++ tail) ∧ tail.getLast? = some v ∧
        v.toNat = tail.length)

/-- Key truncation and what the result depends on (44_block_controller.md R189): bytes after the eighth do not matter; the
key enters only through whether it has 8 bytes and, of the first eight, the bits that are not parity bits. -/
def Obligations.KeyTruncation : Prop :=
  (∀ (key suffix data : List Byte) (dir pad : Bool), key.length = 8 →
    run (key ++ suffix) data dir pad = run key data dir pad) ∧
  (∀ (key key' data : List Byte) (dir pad : Bool), (8 ≤ key.length ↔ 8 ≤ key'.length) →
    (8 ≤ key.length → ∀ k j, k < 8 → 1 ≤ j → j ≤ 7 → (key.getD k 0).getLsbD j = (key'.getD k 0).getLsbD j) →
    run key data dir pad = run key' data dir pad)

/-! ## The machine -/

/-- What reset leaves, of the values the spec gives (10_state.md R36): PHASE = IDLE, BUSY = DONE = ERR = 0, OLEN = 0, no
byte of a buffer written; and the engine waits in IDLE. -/
def Obligations.ResetState : Prop :=
  State.reset.phase = 0 ∧ State.reset.busy = false ∧ State.reset.done = false ∧ State.reset.err = 0 ∧
    State.reset.olen = 0 ∧
    (∀ a, Memory.read? State.reset.keybuf a = none ∧ Memory.read? State.reset.inbuf a = none ∧
      Memory.read? State.reset.outbuf a = none) ∧
    step State.reset = .next State.reset

/-- The control invariant holds after reset. -/
def Obligations.InvAtReset : Prop := Inv State.reset

/-- Every step keeps the control invariant (10_state.md R26, R29, R30; 44_block_controller.md section 3), whatever the host
does. -/
def Obligations.StepKeepsInv : Prop := ∀ s t : State, Inv s → step s = .next t → Inv t

/-- In a state that meets the control invariant a step completes; the one move refused is a host write of KEYBUF or IN
while BUSY = 1 (70_reset_and_hazards.md R251; the refusal is the model's, log 5). No fault is reached. -/
def Obligations.StepCompletesUnderInv : Prop :=
  ∀ s : State, Inv s →
    (∃ t, step s = .next t) ∨
    (s.busy = true ∧ ∃ a v q, (s.hostq = .writeKeybuf a v :: q ∧ step s = .refused (.bufferWriteWhileBusy .keybuf a)) ∨
      (s.hostq = .writeIn a v :: q ∧ step s = .refused (.bufferWriteWhileBusy .inbuf a)))

/-- No index out of range (20_memory.md R60). What KEYCHK does depends on KEYBUF only when KLEN is 8 or more, and then on
KEYBUF[0..7] only. Under the control invariant BLK_LOAD and BLK_STORE stay below WLEN, and BLK_LOAD depends on IN through
TEXT[8B..8B+7] only. STRIP depends on OUT only when WLEN is 1 or more, and then on OUT[WLEN-1] only, which has been
written. The S-box addresses are the formula of 30_encoding.md R87 and below 512. -/
def Obligations.AccessesInRange : Prop :=
  (∀ (s : State) (m : Memory), (8 ≤ s.klen → ∀ k, k < 8 → keyByte { s with keybuf := m } k = keyByte s k) →
    ∃ t, exec .keychk s = .next t ∧ exec .keychk { s with keybuf := m } = .next { t with keybuf := m }) ∧
  (∀ s : State, Inv s → (s.phase = phaseBlkLoad ∨ s.phase = phaseBlkStore) → 8 * s.b + 7 < s.wlen) ∧
  (∀ (s : State) (m : Memory),
    (∀ k, k < 8 → textByte { s with inbuf := m } (8 * s.b + k) = textByte s (8 * s.b + k)) →
    ∃ t, exec .blkLoad s = .next t ∧ exec .blkLoad { s with inbuf := m } = .next { t with inbuf := m }) ∧
  (∀ s : State, Inv s → s.phase = phaseStrip → 1 ≤ s.wlen →
    (Memory.read? s.outbuf (s.wlen - 1)).isSome = true) ∧
  (∀ (s : State) (m : Memory),
    (1 ≤ s.wlen → outByte { s with outbuf := m } (s.wlen - 1) = outByte s (s.wlen - 1)) →
    ∃ t, exec .strip s = .next t ∧ exec .strip { s with outbuf := m } = .next { t with outbuf := m }) ∧
  (∀ (x : BitVec 48) (g row col : Nat), g < 8 →
    row = 2 * (bitAt x (6 * g + 1)).toNat + (bitAt x (6 * g + 6)).toNat →
    col = 8 * (bitAt x (6 * g + 2)).toNat + 4 * (bitAt x (6 * g + 3)).toNat + 2 * (bitAt x (6 * g + 4)).toNat +
      (bitAt x (6 * g + 5)).toNat →
    row < 4 ∧ col < 16 ∧ (sboxAddr x g).toNat = 64 * g + 16 * row + col ∧ 64 * g + 16 * row + col < 512)

/-- Every step keeps the data invariant (44_block_controller.md R188, 42_key_schedule.md R136, 70_reset_and_hazards.md
R255): in every phase of a run the registers and OUT hold what `Run` computes up to there. -/
def Obligations.StepKeepsDataInv : Prop :=
  ∀ s t : State, Inv s → DataInv s → step s = .next t → DataInv t

/-- The sequencer computes Run (44_block_controller.md R188): from any state with BUSY = 0, after START with word w and the
host quiet, the engine is back in IDLE with DONE = 1 after at most 21 + 18*NBLK steps, and STATUS.ERR, OLEN and OUT say
what `Run` says of the operands. -/
def Obligations.SequencerComputesRun : Prop :=
  ∀ (s : State) (w : BitVec 2) (nblk : Nat), s.busy = false →
    nblk = (if cmdPad w = true ∧ cmdDir w = false then s.dlen / 8 + 1 else s.dlen / 8) →
    ∃ n t, n ≤ 21 + 18 * nblk ∧ steps (1 + n) (s.starting w) = .next t ∧
      t.phase = 0 ∧ t.done = true ∧ t.busy = false ∧
      (∀ out, run (keyOperand s) (dataOperand s) (cmdDir w) (cmdPad w) = .ok out →
        t.err = 0 ∧ t.olen = out.length ∧ resultOperand t = out) ∧
      (∀ e, run (keyOperand s) (dataOperand s) (cmdDir w) (cmdPad w) = .error e →
        t.err = e.code ∧ t.olen = 0)

/-- The order of steps of a successful run and their number, 20 + 18*NBLK, one more with STRIP (44_block_controller.md
R172). -/
def Obligations.RunOrderOfSteps : Prop :=
  ∀ (s : State) (w : BitVec 2) (nblk : Nat) (out : List Byte), s.busy = false →
    nblk = (if cmdPad w = true ∧ cmdDir w = false then s.dlen / 8 + 1 else s.dlen / 8) →
    run (keyOperand s) (dataOperand s) (cmdDir w) (cmdPad w) = .ok out →
    (runTrace nblk (cmdPad w && cmdDir w)).length = 20 + 18 * nblk + (if cmdPad w && cmdDir w then 1 else 0) ∧
    (∀ k p, (runTrace nblk (cmdPad w && cmdDir w))[k]? = some p →
      ∃ t, steps (1 + k) (s.starting w) = .next t ∧ t.phase = p ∧ t.busy = true ∧ t.done = false) ∧
    ∃ t, steps (1 + (runTrace nblk (cmdPad w && cmdDir w)).length) (s.starting w) = .next t ∧
      t.phase = 0 ∧ t.busy = false ∧ t.done = true ∧ t.err = 0

/-- The first error is the one reported (60_exceptions.md R217; 44_block_controller.md R172): a short key ends the run at
KEYCHK whatever the data length, an unaligned length at LENCHK. -/
def Obligations.FirstErrorWins : Prop :=
  ∀ (s : State) (w : BitVec 2), s.busy = false →
    (s.klen < 8 → ∃ t, steps 2 (s.starting w) = .next t ∧ t.err = 1 ∧ t.done = true ∧ t.phase = 0 ∧ t.olen = 0) ∧
    (8 ≤ s.klen → s.dlen % 8 ≠ 0 → ¬(cmdPad w = true ∧ cmdDir w = false) →
      ∃ t, steps 3 (s.starting w) = .next t ∧ t.err = 2 ∧ t.done = true ∧ t.phase = 0 ∧ t.olen = 0)

/-- No hidden state (10_state.md R33, R35; 44_block_controller.md R189): two machines with BUSY = 0 that agree on whether
KLEN is 8 or more, on KEYBUF[0..7] if it is, on DLEN and on IN[0..DLEN-1] run for the same number of steps after the same
START, BUSY = 1 at each step before the last and DONE = 1 after it, and end with the same STATUS, OLEN and result,
whatever their other registers hold. -/
def Obligations.NoHiddenState : Prop :=
  ∀ (s s' : State) (w : BitVec 2), s.busy = false → s'.busy = false → (8 ≤ s.klen ↔ 8 ≤ s'.klen) →
    (8 ≤ s.klen → ∀ k, k < 8 → keyByte s k = keyByte s' k) → s.dlen = s'.dlen →
    (∀ a, a < s.dlen → inByte s a = inByte s' a) →
    ∃ n t t', steps (1 + n) (s.starting w) = .next t ∧ steps (1 + n) (s'.starting w) = .next t' ∧
      (∀ k, k < n → ∃ u u', steps (1 + k) (s.starting w) = .next u ∧ steps (1 + k) (s'.starting w) = .next u' ∧
        u.busy = true ∧ u'.busy = true) ∧
      t.phase = 0 ∧ t'.phase = 0 ∧ t.busy = false ∧ t.done = true ∧ t.status = t'.status ∧ t.olen = t'.olen ∧
      (t.err = 0 → resultOperand t = resultOperand t')

/-- From KS_ROUND's end to the end of the run no step writes RK, C, D or KEY (42_key_schedule.md R138). A reset is not
such a step. -/
def Obligations.KeysFixedDuringBlocks : Prop :=
  ∀ s t : State, 5 ≤ s.phase.toNat → s.phase.toNat ≤ 9 → s.busy = true → s.hostq.head? ≠ some .reset →
    step s = .next t → t.rk = s.rk ∧ t.c = s.c ∧ t.d = s.d ∧ t.key = s.key

/-! ## The host -/

/-- A host write of CMD, KLEN or DLEN while BUSY = 1 changes nothing (70_reset_and_hazards.md R252): the step only takes
the access off the host's list. -/
def Obligations.WritesWhileBusyIgnored : Prop :=
  ∀ (s : State) (a : HostAct) (q : List HostAct), s.busy = true → s.hostq = a :: q →
    ((∃ w, a = .writeCmd w) ∨ (∃ n, a = .writeKlen n) ∨ (∃ n, a = .writeDlen n)) →
    step s = .next { s with hostq := q }

/-- Host writes while BUSY = 0 (10_state.md R28, 20_memory.md R50): KLEN and DLEN take the value, a buffer byte is written
and read back, every other byte and register stays. While BUSY = 1 a buffer write is refused (the model's choice for a
move the host never makes, log 5). -/
def Obligations.HostWrites : Prop :=
  ∀ (s : State) (q : List HostAct),
    (∀ n, s.busy = false → s.hostq = .writeKlen n :: q → step s = .next { s with hostq := q, klen := n }) ∧
    (∀ n, s.busy = false → s.hostq = .writeDlen n :: q → step s = .next { s with hostq := q, dlen := n }) ∧
    (∀ a v, s.busy = false → s.hostq = .writeKeybuf a v :: q → ∃ t, step s = .next t ∧
      (∀ b, Memory.read? t.keybuf b = if b = a then some v else Memory.read? s.keybuf b) ∧
      t = { s with hostq := q, keybuf := t.keybuf }) ∧
    (∀ a v, s.busy = false → s.hostq = .writeIn a v :: q → ∃ t, step s = .next t ∧
      (∀ b, Memory.read? t.inbuf b = if b = a then some v else Memory.read? s.inbuf b) ∧
      t = { s with hostq := q, inbuf := t.inbuf }) ∧
    (∀ a v, s.busy = true → s.hostq = .writeKeybuf a v :: q → step s = .refused (.bufferWriteWhileBusy .keybuf a)) ∧
    (∀ a v, s.busy = true → s.hostq = .writeIn a v :: q → step s = .refused (.bufferWriteWhileBusy .inbuf a))

/-- Host reads (60_exceptions.md R221, 20_memory.md R58, 70_reset_and_hazards.md R253): STATUS, KLEN and DLEN return the
register, OLEN returns it and 0 while BUSY = 1, OUT below OLEN returns the byte when DONE = 1 and ERR = 0; CMD and OUT
elsewhere return some value of their width (10_state.md R27, U4, U9; free, log 4); nothing but the value returned and the
model's count of free values changes. That KLEN and DLEN can be read while BUSY = 1 is the model's reading (log 12), the mask of OLEN
is log 11. -/
def Obligations.HostReads : Prop :=
  ∀ (s : State) (q : List HostAct),
    (s.hostq = .readReg .status :: q → step s = .next { s with hostq := q, rdata := some s.status.toNat }) ∧
    (s.hostq = .readReg .klen :: q → step s = .next { s with hostq := q, rdata := some s.klen }) ∧
    (s.hostq = .readReg .dlen :: q → step s = .next { s with hostq := q, rdata := some s.dlen }) ∧
    (s.hostq = .readReg .olen :: q →
      step s = .next { s with hostq := q, rdata := some (if s.busy = true then 0 else s.olen) }) ∧
    (s.hostq = .pollDone :: q → s.done = true →
      step s = .next { s with hostq := q, rdata := some s.status.toNat }) ∧
    (∀ a, s.hostq = .readOut a :: q → s.done = true → s.err = 0 → a < s.olen →
      step s = .next { s with hostq := q, rdata := some (outByte s a).toNat }) ∧
    (s.hostq = .readReg .cmd :: q → ∃ v : BitVec 2,
      step s = .next { s with hostq := q, rdata := some v.toNat, draws := s.draws + 1 }) ∧
    (∀ a, s.hostq = .readOut a :: q → ¬(s.done = true ∧ s.err = 0 ∧ a < s.olen) → ∃ v : Byte,
      step s = .next { s with hostq := q, rdata := some v.toNat, draws := s.draws + 1 })

/-- The internal registers are not the host's (60_exceptions.md R225): a read returns the same whatever they hold, and no
access but START, an engine step left to the engine and a reset changes them. -/
def Obligations.InternalsInvisible : Prop :=
  (∀ (s s' t t' : State) (a : HostAct) (q q' : List HostAct), s.hostq = a :: q → s'.hostq = a :: q' →
    ((∃ r, a = .readReg r) ∨ ∃ k, a = .readOut k) →
    s.klen = s'.klen → s.dlen = s'.dlen → s.status = s'.status → s.olen = s'.olen → s.outbuf = s'.outbuf →
    s.draws = s'.draws → s.resets = s'.resets → step s = .next t → step s' = .next t' → t.rdata = t'.rdata) ∧
  (∀ (s t : State) (a : HostAct) (q : List HostAct), s.hostq = a :: q → (∀ w, a ≠ .writeCmd w) → a ≠ .engineStep →
    (a = .pollDone → s.done = true) → a ≠ .reset → step s = .next t →
    t = { s with
      klen := t.klen, dlen := t.dlen, keybuf := t.keybuf, inbuf := t.inbuf
      hostq := q, rdata := t.rdata, draws := t.draws })

/-- A reset event (70_reset_and_hazards.md R240), in a run or not: PHASE = IDLE, STATUS = 0, OLEN = 0, every byte of every
buffer unwritten, so no DONE and no error of an abandoned run. What stays of the host's own fields is the model's choice
(log 13). -/
def Obligations.ResetEventEffect : Prop :=
  ∀ (s : State) (q : List HostAct), s.hostq = .reset :: q →
    ∃ t, step s = .next t ∧ t.phase = 0 ∧ t.status = 0 ∧ t.olen = 0 ∧
      (∀ a, Memory.read? t.keybuf a = none ∧ Memory.read? t.inbuf a = none ∧ Memory.read? t.outbuf a = none) ∧
      t.hostq = q

/-- Results last (70_reset_and_hazards.md R254): with the engine in IDLE a step that is neither START nor a reset keeps
OUT, OLEN and STATUS, and START itself keeps OUT. -/
def Obligations.ResultsLast : Prop :=
  ∀ s t : State, s.phase = phaseIdle → s.hostq.head? ≠ some .reset → step s = .next t →
    t.outbuf = s.outbuf ∧ ((∀ w, s.hostq.head? ≠ some (.writeCmd w)) → t.olen = s.olen ∧ t.status = s.status)
end

