-- ==== Sys2Proof/Laws/Bits.lean ====
section
/-! SUPPORT. Values and positions of bit sequences (00_scope.md R7 to R9). -/

namespace Sys2Proof.Machine

theorem val_foldl (x : BitSeq) : ∀ acc : Nat,
    x.foldl (fun acc b => 2 * acc + b.toNat) acc = acc * 2 ^ x.length + val x := by
  induction x with
  | nil => intro acc; simp [val]
  | cons b x ih =>
    intro acc
    simp only [val, List.foldl_cons, List.length_cons]
    rw [ih, ih (2 * 0 + b.toNat), Nat.pow_succ]
    ring

theorem val_nil : val [] = 0 := rfl

theorem val_cons (b : Bool) (x : BitSeq) : val (b :: x) = b.toNat * 2 ^ x.length + val x := by
  simp only [val, List.foldl_cons]
  rw [val_foldl]
  simp [val]

/-- A sequence's value fits its length. -/
theorem val_lt (x : BitSeq) : val x < 2 ^ x.length := by
  induction x with
  | nil => simp [val]
  | cons b x ih =>
    rw [val_cons, List.length_cons, Nat.pow_succ]
    cases b <;> simp <;> omega

/-- Bit `i` of a sequence's value is the bit at position `length - i`. -/
theorem testBit_val (x : BitSeq) : ∀ i : Nat, i < x.length →
    (val x).testBit i = x.getD (x.length - 1 - i) false := by
  induction x with
  | nil => intro i h; simp at h
  | cons b x ih =>
    intro i h
    rw [val_cons]
    have hlt := val_lt x
    by_cases hi : i = x.length
    · subst hi
      rw [Nat.mul_comm, Nat.testBit_two_pow_mul_add _ hlt]
      cases b <;> simp
    · have hi' : i < x.length := by simp only [List.length_cons] at h; omega
      rw [Nat.mul_comm, Nat.testBit_two_pow_mul_add _ hlt, if_pos hi', ih i hi']
      rw [List.length_cons, show x.length + 1 - 1 - i = (x.length - 1 - i) + 1 by omega]
      simp

/-- The register of a sequence of its own width holds the sequence's bits. -/
theorem getMsbD_ofBits {n : Nat} {x : BitSeq} (h : x.length = n) (i : Nat) :
    (ofBits n x).getMsbD i = x.getD i false := by
  subst h
  by_cases hi : i < x.length
  · rw [BitVec.getMsbD, ofBits, BitVec.getLsbD_ofNat]
    simp only [hi, decide_true, Bool.true_and]
    rw [show decide (x.length - 1 - i < x.length) = true by simp; omega, Bool.true_and,
      testBit_val x _ (by omega)]
    congr 1
    omega
  · rw [BitVec.getMsbD_of_ge _ _ (by omega)]
    simp [List.getD, List.getElem?_eq_none (by omega : x.length ≤ i)]

/-- Position `p` of the register of a sequence. -/
theorem bitAt_ofBits {n : Nat} {x : BitSeq} (h : x.length = n) (p : Nat) :
    bitAt (ofBits n x) p = x.getD (p - 1) false := getMsbD_ofBits h _

@[simp] theorem length_toBits {n : Nat} (x : BitVec n) : (toBits x).length = n := by simp [toBits]

@[simp] theorem length_bitsN (n v : Nat) : (bitsN n v).length = n := by simp [bitsN]

theorem getD_toBits {n : Nat} (x : BitVec n) (i : Nat) : (toBits x).getD i false = x.getMsbD i := by
  by_cases h : i < n
  · simp [toBits, List.getD, h, bitAt]
  · rw [BitVec.getMsbD_of_ge _ _ (by omega)]
    simp [toBits, List.getD, h]

/-- Two registers with the same bit at every position are equal. -/
theorem eq_of_bitAt {n : Nat} {x y : BitVec n} (h : ∀ p, 1 ≤ p → p ≤ n → bitAt x p = bitAt y p) : x = y := by
  apply BitVec.eq_of_getMsbD_eq
  intro i hi
  have := h (i + 1) (by omega) (by omega)
  simpa [bitAt] using this

/-- The register of the sequence a register holds is the register. -/
@[simp] theorem ofBits_toBits {n : Nat} (x : BitVec n) : ofBits n (toBits x) = x := by
  apply BitVec.eq_of_getMsbD_eq
  intro i _
  rw [getMsbD_ofBits (length_toBits x), getD_toBits]

theorem bitSeq_ext {x y : BitSeq} (hl : x.length = y.length) (h : ∀ i, x.getD i false = y.getD i false) : x = y := by
  apply List.ext_getElem hl
  intro i h1 h2
  have := h i
  simpa [List.getD, h1, h2] using this

/-- The sequence held by the register of a sequence is the sequence. -/
theorem toBits_ofBits {n : Nat} {x : BitSeq} (h : x.length = n) : toBits (ofBits n x) = x := by
  apply bitSeq_ext (by simp [h])
  intro i
  rw [getD_toBits, getMsbD_ofBits h]

/-- A byte's eight bits are the bits of its value (40_bitconverter.md R100). -/
theorem bitsN_toNat {n : Nat} (x : BitVec n) : bitsN n x.toNat = toBits x := by
  apply List.ext_getElem (by simp)
  intro i h1 h2
  have hi : i < n := by simpa using h1
  simp only [bitsN, toBits, List.getElem_map, List.getElem_range, bitAt, BitVec.getMsbD, BitVec.getLsbD]
  simp [hi, Nat.testBit_eq_decide_div_mod_eq, show n - (i + 1) = n - 1 - i by omega]
  rw [Bool.eq_iff_iff]
  simp

end Sys2Proof.Machine
end

