-- ==== Sys2Proof/Laws/Bytes.lean ====
section
/-! SUPPORT. Bytes and sequences (40_bitconverter.md), and applying a table (41_tables.md R110). -/

namespace Sys2Proof.Machine

theorem textToBits_nil : textToBits [] = [] := rfl

theorem textToBits_cons (y : Byte) (ys : List Byte) : textToBits (y :: ys) = toBits y ++ textToBits ys := by
  simp [textToBits, bitsN_toNat]

@[simp] theorem length_textToBits (ys : List Byte) : (textToBits ys).length = 8 * ys.length := by
  induction ys with
  | nil => rfl
  | cons y ys ih => rw [textToBits_cons, List.length_append, ih, length_toBits, List.length_cons]; omega

/-- One byte's bits in front give that byte in front. -/
theorem chunkBytes_append_byte {x : BitSeq} (h : x.length = 8) (rest : BitSeq) :
    chunkBytes (x ++ rest) = ofBits 8 x :: chunkBytes rest := by
  match x, h with
  | [b1, b2, b3, b4, b5, b6, b7, b8], _ => rfl

theorem chunkBytes_nil : chunkBytes [] = [] := rfl

/-- Cutting a byte string's bits into bytes gives the byte string. -/
theorem chunkBytes_textToBits (ys : List Byte) : chunkBytes (textToBits ys) = ys := by
  induction ys with
  | nil => rfl
  | cons y ys ih => rw [textToBits_cons, chunkBytes_append_byte (length_toBits y), ih, ofBits_toBits]

/-- The bytes of whole bytes of bits have those bits. -/
theorem textToBits_chunkBytes : ∀ (n : Nat) (x : BitSeq), x.length = 8 * n →
    (chunkBytes x).length = n ∧ textToBits (chunkBytes x) = x := by
  intro n
  induction n with
  | zero =>
    intro x h
    have : x = [] := List.length_eq_zero_iff.1 (by omega)
    subst this
    exact ⟨rfl, rfl⟩
  | succ n ih =>
    intro x h
    have hx : x = x.take 8 ++ x.drop 8 := (List.take_append_drop 8 x).symm
    have ht : (x.take 8).length = 8 := by simp; omega
    have hd := ih (x.drop 8) (by simp; omega)
    have hc : chunkBytes x = ofBits 8 (x.take 8) :: chunkBytes (x.drop 8) := by
      conv_lhs => rw [hx]
      exact chunkBytes_append_byte ht _
    rw [hc]
    refine ⟨by simp [hd.1], ?_⟩
    rw [textToBits_cons, toBits_ofBits ht, hd.2]
    exact hx.symm

@[simp] theorem length_bytesOfWord (x : BlockWord) : (bytesOfWord x).length = 8 :=
  (textToBits_chunkBytes 8 (toBits x) (by simp)).1

/-- The wiring of R104 one way: eight bytes to a word and back. -/
theorem bytesOfWord_wordOfBytes {ys : List Byte} (h : ys.length = 8) : bytesOfWord (wordOfBytes ys) = ys := by
  rw [bytesOfWord, wordOfBytes, toBits_ofBits (by simp [h]), chunkBytes_textToBits]

/-- And the other way. -/
theorem wordOfBytes_bytesOfWord (x : BlockWord) : wordOfBytes (bytesOfWord x) = x := by
  rw [wordOfBytes, bytesOfWord, (textToBits_chunkBytes 8 (toBits x) (by simp)).2, ofBits_toBits]

@[simp] theorem length_readBytes (view : Nat → Byte) (a n : Nat) : (readBytes view a n).length = n := by
  simp [readBytes]

theorem getD_readBytes (view : Nat → Byte) (a n k : Nat) (h : k < n) (v : Byte) :
    (readBytes view a n).getD k v = view (a + k) := by
  simp [readBytes, List.getD, h]

/-- Reading through two views that agree on the bytes read gives the same bytes. -/
theorem readBytes_congr {f g : Nat → Byte} {a n : Nat} (h : ∀ k, k < n → f (a + k) = g (a + k)) :
    readBytes f a n = readBytes g a n := by
  apply List.map_congr_left
  intro k hk
  exact h k (List.mem_range.1 hk)

/-- The lengths of the six tables and of SHIFT (41_tables.md). -/
theorem table_lengths : tableIP.length = 64 ∧ tableFP.length = 64 ∧ tableE.length = 48 ∧ tableP.length = 32 ∧
    tablePC1.length = 56 ∧ tablePC2.length = 48 ∧ tableShift.length = 16 := by decide

/-- The eight S-boxes have four rows of sixteen entries (41_tables.md R120). -/
theorem boxes_shape : boxes.length = 8 ∧ ∀ b ∈ boxes, b.length = 4 ∧ ∀ r ∈ b, r.length = 16 := by decide

/-- The six tables are well-formed (41_tables.md R110). -/
theorem tables_ok : tableOk 64 64 tableIP ∧ tableOk 64 64 tableFP ∧ tableOk 32 48 tableE ∧ tableOk 32 32 tableP ∧
    tableOk 64 56 tablePC1 ∧ tableOk 56 48 tablePC2 := by decide +kernel

theorem getMsbD_permute {m n : Nat} {t : List Nat} (h : t.length = m) (x : BitVec n) (i : Nat) (hi : i < m) :
    (permute m t x).getMsbD i = bitAt x (t.getD i 0) := by
  rw [permute, getMsbD_ofBits (by simp [h])]
  simp [List.getD, h, hi]

end Sys2Proof.Machine
end

