-- ==== Sys2Proof/Laws/State.lean ====
section
/-! SUPPORT. One lemma per field for each named update of the state, so that no proof unfolds a record update. -/

namespace Sys2Proof.Machine

@[simp] theorem raise_cmd (e : ErrorKind) (s : State) : (raise e s).cmd = s.cmd := rfl

@[simp] theorem raise_klen (e : ErrorKind) (s : State) : (raise e s).klen = s.klen := rfl

@[simp] theorem raise_dlen (e : ErrorKind) (s : State) : (raise e s).dlen = s.dlen := rfl

@[simp] theorem raise_status (e : ErrorKind) (s : State) : (raise e s).status = statusAbort e := rfl

@[simp] theorem raise_olen (e : ErrorKind) (s : State) : (raise e s).olen = 0 := rfl

@[simp] theorem raise_phase (e : ErrorKind) (s : State) : (raise e s).phase = phaseIdle := rfl

@[simp] theorem raise_i (e : ErrorKind) (s : State) : (raise e s).i = s.i := rfl

@[simp] theorem raise_b (e : ErrorKind) (s : State) : (raise e s).b = s.b := rfl

@[simp] theorem raise_nblk (e : ErrorKind) (s : State) : (raise e s).nblk = s.nblk := rfl

@[simp] theorem raise_wlen (e : ErrorKind) (s : State) : (raise e s).wlen = s.wlen := rfl

@[simp] theorem raise_dir (e : ErrorKind) (s : State) : (raise e s).dir = s.dir := rfl

@[simp] theorem raise_pad (e : ErrorKind) (s : State) : (raise e s).pad = s.pad := rfl

@[simp] theorem raise_key (e : ErrorKind) (s : State) : (raise e s).key = s.key := rfl

@[simp] theorem raise_c (e : ErrorKind) (s : State) : (raise e s).c = s.c := rfl

@[simp] theorem raise_d (e : ErrorKind) (s : State) : (raise e s).d = s.d := rfl

@[simp] theorem raise_rk (e : ErrorKind) (s : State) : (raise e s).rk = s.rk := rfl

@[simp] theorem raise_l (e : ErrorKind) (s : State) : (raise e s).l = s.l := rfl

@[simp] theorem raise_r (e : ErrorKind) (s : State) : (raise e s).r = s.r := rfl

@[simp] theorem raise_keybuf (e : ErrorKind) (s : State) : (raise e s).keybuf = s.keybuf := rfl

@[simp] theorem raise_inbuf (e : ErrorKind) (s : State) : (raise e s).inbuf = s.inbuf := rfl

@[simp] theorem raise_outbuf (e : ErrorKind) (s : State) : (raise e s).outbuf = s.outbuf := rfl

@[simp] theorem raise_hostq (e : ErrorKind) (s : State) : (raise e s).hostq = s.hostq := rfl

@[simp] theorem raise_rdata (e : ErrorKind) (s : State) : (raise e s).rdata = s.rdata := rfl

@[simp] theorem raise_draws (e : ErrorKind) (s : State) : (raise e s).draws = s.draws := rfl

@[simp] theorem raise_resets (e : ErrorKind) (s : State) : (raise e s).resets = s.resets := rfl

@[simp] theorem startRun_cmd (w : BitVec 2) (s : State) : (startRun w s).cmd = w := rfl

@[simp] theorem startRun_klen (w : BitVec 2) (s : State) : (startRun w s).klen = s.klen := rfl

@[simp] theorem startRun_dlen (w : BitVec 2) (s : State) : (startRun w s).dlen = s.dlen := rfl

@[simp] theorem startRun_status (w : BitVec 2) (s : State) : (startRun w s).status = statusStart := rfl

@[simp] theorem startRun_olen (w : BitVec 2) (s : State) : (startRun w s).olen = 0 := rfl

@[simp] theorem startRun_phase (w : BitVec 2) (s : State) : (startRun w s).phase = phaseKeychk := rfl

@[simp] theorem startRun_i (w : BitVec 2) (s : State) : (startRun w s).i = s.i := rfl

@[simp] theorem startRun_b (w : BitVec 2) (s : State) : (startRun w s).b = s.b := rfl

@[simp] theorem startRun_nblk (w : BitVec 2) (s : State) : (startRun w s).nblk = s.nblk := rfl

@[simp] theorem startRun_wlen (w : BitVec 2) (s : State) : (startRun w s).wlen = s.wlen := rfl

@[simp] theorem startRun_dir (w : BitVec 2) (s : State) : (startRun w s).dir = cmdDir w := rfl

@[simp] theorem startRun_pad (w : BitVec 2) (s : State) : (startRun w s).pad = cmdPad w := rfl

@[simp] theorem startRun_key (w : BitVec 2) (s : State) : (startRun w s).key = s.key := rfl

@[simp] theorem startRun_c (w : BitVec 2) (s : State) : (startRun w s).c = s.c := rfl

@[simp] theorem startRun_d (w : BitVec 2) (s : State) : (startRun w s).d = s.d := rfl

@[simp] theorem startRun_rk (w : BitVec 2) (s : State) : (startRun w s).rk = s.rk := rfl

@[simp] theorem startRun_l (w : BitVec 2) (s : State) : (startRun w s).l = s.l := rfl

@[simp] theorem startRun_r (w : BitVec 2) (s : State) : (startRun w s).r = s.r := rfl

@[simp] theorem startRun_keybuf (w : BitVec 2) (s : State) : (startRun w s).keybuf = s.keybuf := rfl

@[simp] theorem startRun_inbuf (w : BitVec 2) (s : State) : (startRun w s).inbuf = s.inbuf := rfl

@[simp] theorem startRun_outbuf (w : BitVec 2) (s : State) : (startRun w s).outbuf = s.outbuf := rfl

@[simp] theorem startRun_hostq (w : BitVec 2) (s : State) : (startRun w s).hostq = s.hostq := rfl

@[simp] theorem startRun_rdata (w : BitVec 2) (s : State) : (startRun w s).rdata = s.rdata := rfl

@[simp] theorem startRun_draws (w : BitVec 2) (s : State) : (startRun w s).draws = s.draws := rfl

@[simp] theorem startRun_resets (w : BitVec 2) (s : State) : (startRun w s).resets = s.resets := rfl

@[simp] theorem setLengths_cmd (w : Nat) (s : State) : (setLengths w s).cmd = s.cmd := rfl

@[simp] theorem setLengths_klen (w : Nat) (s : State) : (setLengths w s).klen = s.klen := rfl

@[simp] theorem setLengths_dlen (w : Nat) (s : State) : (setLengths w s).dlen = s.dlen := rfl

@[simp] theorem setLengths_status (w : Nat) (s : State) : (setLengths w s).status = s.status := rfl

@[simp] theorem setLengths_olen (w : Nat) (s : State) : (setLengths w s).olen = s.olen := rfl

@[simp] theorem setLengths_phase (w : Nat) (s : State) : (setLengths w s).phase = phaseKsPc1 := rfl

@[simp] theorem setLengths_i (w : Nat) (s : State) : (setLengths w s).i = s.i := rfl

@[simp] theorem setLengths_b (w : Nat) (s : State) : (setLengths w s).b = s.b := rfl

@[simp] theorem setLengths_nblk (w : Nat) (s : State) : (setLengths w s).nblk = w / Config.blockBytes := rfl

@[simp] theorem setLengths_wlen (w : Nat) (s : State) : (setLengths w s).wlen = w := rfl

@[simp] theorem setLengths_dir (w : Nat) (s : State) : (setLengths w s).dir = s.dir := rfl

@[simp] theorem setLengths_pad (w : Nat) (s : State) : (setLengths w s).pad = s.pad := rfl

@[simp] theorem setLengths_key (w : Nat) (s : State) : (setLengths w s).key = s.key := rfl

@[simp] theorem setLengths_c (w : Nat) (s : State) : (setLengths w s).c = s.c := rfl

@[simp] theorem setLengths_d (w : Nat) (s : State) : (setLengths w s).d = s.d := rfl

@[simp] theorem setLengths_rk (w : Nat) (s : State) : (setLengths w s).rk = s.rk := rfl

@[simp] theorem setLengths_l (w : Nat) (s : State) : (setLengths w s).l = s.l := rfl

@[simp] theorem setLengths_r (w : Nat) (s : State) : (setLengths w s).r = s.r := rfl

@[simp] theorem setLengths_keybuf (w : Nat) (s : State) : (setLengths w s).keybuf = s.keybuf := rfl

@[simp] theorem setLengths_inbuf (w : Nat) (s : State) : (setLengths w s).inbuf = s.inbuf := rfl

@[simp] theorem setLengths_outbuf (w : Nat) (s : State) : (setLengths w s).outbuf = s.outbuf := rfl

@[simp] theorem setLengths_hostq (w : Nat) (s : State) : (setLengths w s).hostq = s.hostq := rfl

@[simp] theorem setLengths_rdata (w : Nat) (s : State) : (setLengths w s).rdata = s.rdata := rfl

@[simp] theorem setLengths_draws (w : Nat) (s : State) : (setLengths w s).draws = s.draws := rfl

@[simp] theorem setLengths_resets (w : Nat) (s : State) : (setLengths w s).resets = s.resets := rfl

@[simp] theorem ksRoundStep_cmd (s : State) : (ksRoundStep s).cmd = s.cmd := rfl

@[simp] theorem ksRoundStep_klen (s : State) : (ksRoundStep s).klen = s.klen := rfl

@[simp] theorem ksRoundStep_dlen (s : State) : (ksRoundStep s).dlen = s.dlen := rfl

@[simp] theorem ksRoundStep_status (s : State) : (ksRoundStep s).status = s.status := rfl

@[simp] theorem ksRoundStep_olen (s : State) : (ksRoundStep s).olen = s.olen := rfl

@[simp] theorem ksRoundStep_phase (s : State) : (ksRoundStep s).phase = (if s.i.toNat + 1 = Config.nRounds then phaseAfterKeys s else s.phase) := rfl

@[simp] theorem ksRoundStep_i (s : State) : (ksRoundStep s).i = s.i + 1 := rfl

@[simp] theorem ksRoundStep_b (s : State) : (ksRoundStep s).b = (if s.i.toNat + 1 = Config.nRounds then 0 else s.b) := rfl

@[simp] theorem ksRoundStep_nblk (s : State) : (ksRoundStep s).nblk = s.nblk := rfl

@[simp] theorem ksRoundStep_wlen (s : State) : (ksRoundStep s).wlen = s.wlen := rfl

@[simp] theorem ksRoundStep_dir (s : State) : (ksRoundStep s).dir = s.dir := rfl

@[simp] theorem ksRoundStep_pad (s : State) : (ksRoundStep s).pad = s.pad := rfl

@[simp] theorem ksRoundStep_key (s : State) : (ksRoundStep s).key = s.key := rfl

@[simp] theorem ksRoundStep_c (s : State) : (ksRoundStep s).c = (ksRound s.i.toNat s.c s.d).1 := rfl

@[simp] theorem ksRoundStep_d (s : State) : (ksRoundStep s).d = (ksRound s.i.toNat s.c s.d).2.1 := rfl

@[simp] theorem ksRoundStep_rk (s : State) : (ksRoundStep s).rk = s.rk.setIfInBounds s.i.toNat (ksRound s.i.toNat s.c s.d).2.2 := rfl

@[simp] theorem ksRoundStep_l (s : State) : (ksRoundStep s).l = s.l := rfl

@[simp] theorem ksRoundStep_r (s : State) : (ksRoundStep s).r = s.r := rfl

@[simp] theorem ksRoundStep_keybuf (s : State) : (ksRoundStep s).keybuf = s.keybuf := rfl

@[simp] theorem ksRoundStep_inbuf (s : State) : (ksRoundStep s).inbuf = s.inbuf := rfl

@[simp] theorem ksRoundStep_outbuf (s : State) : (ksRoundStep s).outbuf = s.outbuf := rfl

@[simp] theorem ksRoundStep_hostq (s : State) : (ksRoundStep s).hostq = s.hostq := rfl

@[simp] theorem ksRoundStep_rdata (s : State) : (ksRoundStep s).rdata = s.rdata := rfl

@[simp] theorem ksRoundStep_draws (s : State) : (ksRoundStep s).draws = s.draws := rfl

@[simp] theorem ksRoundStep_resets (s : State) : (ksRoundStep s).resets = s.resets := rfl

@[simp] theorem blkRoundStep_cmd (s : State) : (blkRoundStep s).cmd = s.cmd := rfl

@[simp] theorem blkRoundStep_klen (s : State) : (blkRoundStep s).klen = s.klen := rfl

@[simp] theorem blkRoundStep_dlen (s : State) : (blkRoundStep s).dlen = s.dlen := rfl

@[simp] theorem blkRoundStep_status (s : State) : (blkRoundStep s).status = s.status := rfl

@[simp] theorem blkRoundStep_olen (s : State) : (blkRoundStep s).olen = s.olen := rfl

@[simp] theorem blkRoundStep_phase (s : State) : (blkRoundStep s).phase = (if s.i.toNat + 1 = Config.nRounds then phaseBlkStore else s.phase) := rfl

@[simp] theorem blkRoundStep_i (s : State) : (blkRoundStep s).i = s.i + 1 := rfl

@[simp] theorem blkRoundStep_b (s : State) : (blkRoundStep s).b = s.b := rfl

@[simp] theorem blkRoundStep_nblk (s : State) : (blkRoundStep s).nblk = s.nblk := rfl

@[simp] theorem blkRoundStep_wlen (s : State) : (blkRoundStep s).wlen = s.wlen := rfl

@[simp] theorem blkRoundStep_dir (s : State) : (blkRoundStep s).dir = s.dir := rfl

@[simp] theorem blkRoundStep_pad (s : State) : (blkRoundStep s).pad = s.pad := rfl

@[simp] theorem blkRoundStep_key (s : State) : (blkRoundStep s).key = s.key := rfl

@[simp] theorem blkRoundStep_c (s : State) : (blkRoundStep s).c = s.c := rfl

@[simp] theorem blkRoundStep_d (s : State) : (blkRoundStep s).d = s.d := rfl

@[simp] theorem blkRoundStep_rk (s : State) : (blkRoundStep s).rk = s.rk := rfl

@[simp] theorem blkRoundStep_l (s : State) : (blkRoundStep s).l = (feistelRound s.l s.r (roundKeyAt s.rk s.dir s.i.toNat)).1 := rfl

@[simp] theorem blkRoundStep_r (s : State) : (blkRoundStep s).r = (feistelRound s.l s.r (roundKeyAt s.rk s.dir s.i.toNat)).2 := rfl

@[simp] theorem blkRoundStep_keybuf (s : State) : (blkRoundStep s).keybuf = s.keybuf := rfl

@[simp] theorem blkRoundStep_inbuf (s : State) : (blkRoundStep s).inbuf = s.inbuf := rfl

@[simp] theorem blkRoundStep_outbuf (s : State) : (blkRoundStep s).outbuf = s.outbuf := rfl

@[simp] theorem blkRoundStep_hostq (s : State) : (blkRoundStep s).hostq = s.hostq := rfl

@[simp] theorem blkRoundStep_rdata (s : State) : (blkRoundStep s).rdata = s.rdata := rfl

@[simp] theorem blkRoundStep_draws (s : State) : (blkRoundStep s).draws = s.draws := rfl

@[simp] theorem blkRoundStep_resets (s : State) : (blkRoundStep s).resets = s.resets := rfl

@[simp] theorem resetEvent_cmd (s : State) : (resetEvent s).cmd = State.reset.cmd := rfl

@[simp] theorem resetEvent_klen (s : State) : (resetEvent s).klen = State.reset.klen := rfl

@[simp] theorem resetEvent_dlen (s : State) : (resetEvent s).dlen = State.reset.dlen := rfl

@[simp] theorem resetEvent_status (s : State) : (resetEvent s).status = State.reset.status := rfl

@[simp] theorem resetEvent_olen (s : State) : (resetEvent s).olen = State.reset.olen := rfl

@[simp] theorem resetEvent_phase (s : State) : (resetEvent s).phase = State.reset.phase := rfl

@[simp] theorem resetEvent_i (s : State) : (resetEvent s).i = State.reset.i := rfl

@[simp] theorem resetEvent_b (s : State) : (resetEvent s).b = State.reset.b := rfl

@[simp] theorem resetEvent_nblk (s : State) : (resetEvent s).nblk = State.reset.nblk := rfl

@[simp] theorem resetEvent_wlen (s : State) : (resetEvent s).wlen = State.reset.wlen := rfl

@[simp] theorem resetEvent_dir (s : State) : (resetEvent s).dir = State.reset.dir := rfl

@[simp] theorem resetEvent_pad (s : State) : (resetEvent s).pad = State.reset.pad := rfl

@[simp] theorem resetEvent_key (s : State) : (resetEvent s).key = State.reset.key := rfl

@[simp] theorem resetEvent_c (s : State) : (resetEvent s).c = State.reset.c := rfl

@[simp] theorem resetEvent_d (s : State) : (resetEvent s).d = State.reset.d := rfl

@[simp] theorem resetEvent_rk (s : State) : (resetEvent s).rk = State.reset.rk := rfl

@[simp] theorem resetEvent_l (s : State) : (resetEvent s).l = State.reset.l := rfl

@[simp] theorem resetEvent_r (s : State) : (resetEvent s).r = State.reset.r := rfl

@[simp] theorem resetEvent_keybuf (s : State) : (resetEvent s).keybuf = State.reset.keybuf := rfl

@[simp] theorem resetEvent_inbuf (s : State) : (resetEvent s).inbuf = State.reset.inbuf := rfl

@[simp] theorem resetEvent_outbuf (s : State) : (resetEvent s).outbuf = State.reset.outbuf := rfl

@[simp] theorem resetEvent_hostq (s : State) : (resetEvent s).hostq = s.hostq := rfl

@[simp] theorem resetEvent_rdata (s : State) : (resetEvent s).rdata = s.rdata := rfl

@[simp] theorem resetEvent_draws (s : State) : (resetEvent s).draws = s.draws := rfl

@[simp] theorem resetEvent_resets (s : State) : (resetEvent s).resets = s.resets + 1 := rfl

@[simp] theorem readReg_cmd (r : HostReg) (s : State) : (readReg r s).cmd = s.cmd := by cases r <;> rfl

@[simp] theorem readReg_klen (r : HostReg) (s : State) : (readReg r s).klen = s.klen := by cases r <;> rfl

@[simp] theorem readReg_dlen (r : HostReg) (s : State) : (readReg r s).dlen = s.dlen := by cases r <;> rfl

@[simp] theorem readReg_status (r : HostReg) (s : State) : (readReg r s).status = s.status := by cases r <;> rfl

@[simp] theorem readReg_olen (r : HostReg) (s : State) : (readReg r s).olen = s.olen := by cases r <;> rfl

@[simp] theorem readReg_phase (r : HostReg) (s : State) : (readReg r s).phase = s.phase := by cases r <;> rfl

@[simp] theorem readReg_i (r : HostReg) (s : State) : (readReg r s).i = s.i := by cases r <;> rfl

@[simp] theorem readReg_b (r : HostReg) (s : State) : (readReg r s).b = s.b := by cases r <;> rfl

@[simp] theorem readReg_nblk (r : HostReg) (s : State) : (readReg r s).nblk = s.nblk := by cases r <;> rfl

@[simp] theorem readReg_wlen (r : HostReg) (s : State) : (readReg r s).wlen = s.wlen := by cases r <;> rfl

@[simp] theorem readReg_dir (r : HostReg) (s : State) : (readReg r s).dir = s.dir := by cases r <;> rfl

@[simp] theorem readReg_pad (r : HostReg) (s : State) : (readReg r s).pad = s.pad := by cases r <;> rfl

@[simp] theorem readReg_key (r : HostReg) (s : State) : (readReg r s).key = s.key := by cases r <;> rfl

@[simp] theorem readReg_c (r : HostReg) (s : State) : (readReg r s).c = s.c := by cases r <;> rfl

@[simp] theorem readReg_d (r : HostReg) (s : State) : (readReg r s).d = s.d := by cases r <;> rfl

@[simp] theorem readReg_rk (r : HostReg) (s : State) : (readReg r s).rk = s.rk := by cases r <;> rfl

@[simp] theorem readReg_l (r : HostReg) (s : State) : (readReg r s).l = s.l := by cases r <;> rfl

@[simp] theorem readReg_r (r : HostReg) (s : State) : (readReg r s).r = s.r := by cases r <;> rfl

@[simp] theorem readReg_keybuf (r : HostReg) (s : State) : (readReg r s).keybuf = s.keybuf := by cases r <;> rfl

@[simp] theorem readReg_inbuf (r : HostReg) (s : State) : (readReg r s).inbuf = s.inbuf := by cases r <;> rfl

@[simp] theorem readReg_outbuf (r : HostReg) (s : State) : (readReg r s).outbuf = s.outbuf := by cases r <;> rfl

@[simp] theorem readReg_hostq (r : HostReg) (s : State) : (readReg r s).hostq = s.hostq := by cases r <;> rfl

@[simp] theorem readReg_resets (r : HostReg) (s : State) : (readReg r s).resets = s.resets := by cases r <;> rfl

@[simp] theorem readOut_cmd (a : Nat) (s : State) : (readOut a s).cmd = s.cmd := by unfold readOut; split <;> rfl

@[simp] theorem readOut_klen (a : Nat) (s : State) : (readOut a s).klen = s.klen := by unfold readOut; split <;> rfl

@[simp] theorem readOut_dlen (a : Nat) (s : State) : (readOut a s).dlen = s.dlen := by unfold readOut; split <;> rfl

@[simp] theorem readOut_status (a : Nat) (s : State) : (readOut a s).status = s.status := by unfold readOut; split <;> rfl

@[simp] theorem readOut_olen (a : Nat) (s : State) : (readOut a s).olen = s.olen := by unfold readOut; split <;> rfl

@[simp] theorem readOut_phase (a : Nat) (s : State) : (readOut a s).phase = s.phase := by unfold readOut; split <;> rfl

@[simp] theorem readOut_i (a : Nat) (s : State) : (readOut a s).i = s.i := by unfold readOut; split <;> rfl

@[simp] theorem readOut_b (a : Nat) (s : State) : (readOut a s).b = s.b := by unfold readOut; split <;> rfl

@[simp] theorem readOut_nblk (a : Nat) (s : State) : (readOut a s).nblk = s.nblk := by unfold readOut; split <;> rfl

@[simp] theorem readOut_wlen (a : Nat) (s : State) : (readOut a s).wlen = s.wlen := by unfold readOut; split <;> rfl

@[simp] theorem readOut_dir (a : Nat) (s : State) : (readOut a s).dir = s.dir := by unfold readOut; split <;> rfl

@[simp] theorem readOut_pad (a : Nat) (s : State) : (readOut a s).pad = s.pad := by unfold readOut; split <;> rfl

@[simp] theorem readOut_key (a : Nat) (s : State) : (readOut a s).key = s.key := by unfold readOut; split <;> rfl

@[simp] theorem readOut_c (a : Nat) (s : State) : (readOut a s).c = s.c := by unfold readOut; split <;> rfl

@[simp] theorem readOut_d (a : Nat) (s : State) : (readOut a s).d = s.d := by unfold readOut; split <;> rfl

@[simp] theorem readOut_rk (a : Nat) (s : State) : (readOut a s).rk = s.rk := by unfold readOut; split <;> rfl

@[simp] theorem readOut_l (a : Nat) (s : State) : (readOut a s).l = s.l := by unfold readOut; split <;> rfl

@[simp] theorem readOut_r (a : Nat) (s : State) : (readOut a s).r = s.r := by unfold readOut; split <;> rfl

@[simp] theorem readOut_keybuf (a : Nat) (s : State) : (readOut a s).keybuf = s.keybuf := by unfold readOut; split <;> rfl

@[simp] theorem readOut_inbuf (a : Nat) (s : State) : (readOut a s).inbuf = s.inbuf := by unfold readOut; split <;> rfl

@[simp] theorem readOut_outbuf (a : Nat) (s : State) : (readOut a s).outbuf = s.outbuf := by unfold readOut; split <;> rfl

@[simp] theorem readOut_hostq (a : Nat) (s : State) : (readOut a s).hostq = s.hostq := by unfold readOut; split <;> rfl

@[simp] theorem readOut_resets (a : Nat) (s : State) : (readOut a s).resets = s.resets := by unfold readOut; split <;> rfl

@[simp] theorem writeKlen_cmd (n : Nat) (s : State) : (writeKlen n s).cmd = s.cmd := by unfold writeKlen; split <;> rfl

@[simp] theorem writeKlen_dlen (n : Nat) (s : State) : (writeKlen n s).dlen = s.dlen := by unfold writeKlen; split <;> rfl

@[simp] theorem writeKlen_status (n : Nat) (s : State) : (writeKlen n s).status = s.status := by unfold writeKlen; split <;> rfl

@[simp] theorem writeKlen_olen (n : Nat) (s : State) : (writeKlen n s).olen = s.olen := by unfold writeKlen; split <;> rfl

@[simp] theorem writeKlen_phase (n : Nat) (s : State) : (writeKlen n s).phase = s.phase := by unfold writeKlen; split <;> rfl

@[simp] theorem writeKlen_i (n : Nat) (s : State) : (writeKlen n s).i = s.i := by unfold writeKlen; split <;> rfl

@[simp] theorem writeKlen_b (n : Nat) (s : State) : (writeKlen n s).b = s.b := by unfold writeKlen; split <;> rfl

@[simp] theorem writeKlen_nblk (n : Nat) (s : State) : (writeKlen n s).nblk = s.nblk := by unfold writeKlen; split <;> rfl

@[simp] theorem writeKlen_wlen (n : Nat) (s : State) : (writeKlen n s).wlen = s.wlen := by unfold writeKlen; split <;> rfl

@[simp] theorem writeKlen_dir (n : Nat) (s : State) : (writeKlen n s).dir = s.dir := by unfold writeKlen; split <;> rfl

@[simp] theorem writeKlen_pad (n : Nat) (s : State) : (writeKlen n s).pad = s.pad := by unfold writeKlen; split <;> rfl

@[simp] theorem writeKlen_key (n : Nat) (s : State) : (writeKlen n s).key = s.key := by unfold writeKlen; split <;> rfl

@[simp] theorem writeKlen_c (n : Nat) (s : State) : (writeKlen n s).c = s.c := by unfold writeKlen; split <;> rfl

@[simp] theorem writeKlen_d (n : Nat) (s : State) : (writeKlen n s).d = s.d := by unfold writeKlen; split <;> rfl

@[simp] theorem writeKlen_rk (n : Nat) (s : State) : (writeKlen n s).rk = s.rk := by unfold writeKlen; split <;> rfl

@[simp] theorem writeKlen_l (n : Nat) (s : State) : (writeKlen n s).l = s.l := by unfold writeKlen; split <;> rfl

@[simp] theorem writeKlen_r (n : Nat) (s : State) : (writeKlen n s).r = s.r := by unfold writeKlen; split <;> rfl

@[simp] theorem writeKlen_keybuf (n : Nat) (s : State) : (writeKlen n s).keybuf = s.keybuf := by unfold writeKlen; split <;> rfl

@[simp] theorem writeKlen_inbuf (n : Nat) (s : State) : (writeKlen n s).inbuf = s.inbuf := by unfold writeKlen; split <;> rfl

@[simp] theorem writeKlen_outbuf (n : Nat) (s : State) : (writeKlen n s).outbuf = s.outbuf := by unfold writeKlen; split <;> rfl

@[simp] theorem writeKlen_hostq (n : Nat) (s : State) : (writeKlen n s).hostq = s.hostq := by unfold writeKlen; split <;> rfl

@[simp] theorem writeKlen_rdata (n : Nat) (s : State) : (writeKlen n s).rdata = s.rdata := by unfold writeKlen; split <;> rfl

@[simp] theorem writeKlen_draws (n : Nat) (s : State) : (writeKlen n s).draws = s.draws := by unfold writeKlen; split <;> rfl

@[simp] theorem writeKlen_resets (n : Nat) (s : State) : (writeKlen n s).resets = s.resets := by unfold writeKlen; split <;> rfl

@[simp] theorem writeDlen_cmd (n : Nat) (s : State) : (writeDlen n s).cmd = s.cmd := by unfold writeDlen; split <;> rfl

@[simp] theorem writeDlen_klen (n : Nat) (s : State) : (writeDlen n s).klen = s.klen := by unfold writeDlen; split <;> rfl

@[simp] theorem writeDlen_status (n : Nat) (s : State) : (writeDlen n s).status = s.status := by unfold writeDlen; split <;> rfl

@[simp] theorem writeDlen_olen (n : Nat) (s : State) : (writeDlen n s).olen = s.olen := by unfold writeDlen; split <;> rfl

@[simp] theorem writeDlen_phase (n : Nat) (s : State) : (writeDlen n s).phase = s.phase := by unfold writeDlen; split <;> rfl

@[simp] theorem writeDlen_i (n : Nat) (s : State) : (writeDlen n s).i = s.i := by unfold writeDlen; split <;> rfl

@[simp] theorem writeDlen_b (n : Nat) (s : State) : (writeDlen n s).b = s.b := by unfold writeDlen; split <;> rfl

@[simp] theorem writeDlen_nblk (n : Nat) (s : State) : (writeDlen n s).nblk = s.nblk := by unfold writeDlen; split <;> rfl

@[simp] theorem writeDlen_wlen (n : Nat) (s : State) : (writeDlen n s).wlen = s.wlen := by unfold writeDlen; split <;> rfl

@[simp] theorem writeDlen_dir (n : Nat) (s : State) : (writeDlen n s).dir = s.dir := by unfold writeDlen; split <;> rfl

@[simp] theorem writeDlen_pad (n : Nat) (s : State) : (writeDlen n s).pad = s.pad := by unfold writeDlen; split <;> rfl

@[simp] theorem writeDlen_key (n : Nat) (s : State) : (writeDlen n s).key = s.key := by unfold writeDlen; split <;> rfl

@[simp] theorem writeDlen_c (n : Nat) (s : State) : (writeDlen n s).c = s.c := by unfold writeDlen; split <;> rfl

@[simp] theorem writeDlen_d (n : Nat) (s : State) : (writeDlen n s).d = s.d := by unfold writeDlen; split <;> rfl

@[simp] theorem writeDlen_rk (n : Nat) (s : State) : (writeDlen n s).rk = s.rk := by unfold writeDlen; split <;> rfl

@[simp] theorem writeDlen_l (n : Nat) (s : State) : (writeDlen n s).l = s.l := by unfold writeDlen; split <;> rfl

@[simp] theorem writeDlen_r (n : Nat) (s : State) : (writeDlen n s).r = s.r := by unfold writeDlen; split <;> rfl

@[simp] theorem writeDlen_keybuf (n : Nat) (s : State) : (writeDlen n s).keybuf = s.keybuf := by unfold writeDlen; split <;> rfl

@[simp] theorem writeDlen_inbuf (n : Nat) (s : State) : (writeDlen n s).inbuf = s.inbuf := by unfold writeDlen; split <;> rfl

@[simp] theorem writeDlen_outbuf (n : Nat) (s : State) : (writeDlen n s).outbuf = s.outbuf := by unfold writeDlen; split <;> rfl

@[simp] theorem writeDlen_hostq (n : Nat) (s : State) : (writeDlen n s).hostq = s.hostq := by unfold writeDlen; split <;> rfl

@[simp] theorem writeDlen_rdata (n : Nat) (s : State) : (writeDlen n s).rdata = s.rdata := by unfold writeDlen; split <;> rfl

@[simp] theorem writeDlen_draws (n : Nat) (s : State) : (writeDlen n s).draws = s.draws := by unfold writeDlen; split <;> rfl

@[simp] theorem writeDlen_resets (n : Nat) (s : State) : (writeDlen n s).resets = s.resets := by unfold writeDlen; split <;> rfl

end Sys2Proof.Machine
end

