-- ==== Sys2Proof/Laws/Memory.lean ====
section
/-! SUPPORT. The byte buffers: a read after a write, and that every operation keeps the canonical form. -/

namespace Sys2Proof.Machine

/-- A byte written is read back. -/
@[simp] theorem Memory.read_write_same (m : Memory) (a : Nat) (v : Byte) :
    Memory.read? (Memory.write m a v) a = some v := by
  induction m with
  | nil => simp [Memory.write, Memory.read?]
  | cons c rest ih =>
    obtain ⟨k, w⟩ := c
    simp only [Memory.write]
    split
    · simp [Memory.read?]
    · split
      · rename_i h; simp [Memory.read?, h]
      · rename_i h; simp [Memory.read?, h, ih]

/-- A write leaves every other address alone. -/
theorem Memory.read_write_ne (m : Memory) {a b : Nat} (v : Byte) (h : b ≠ a) :
    Memory.read? (Memory.write m a v) b = Memory.read? m b := by
  induction m with
  | nil => simp [Memory.write, Memory.read?, h]
  | cons c rest ih =>
    obtain ⟨k, w⟩ := c
    simp only [Memory.write]
    split
    · simp [Memory.read?, h]
    · split
      · rename_i h'; subst h'; simp [Memory.read?, h]
      · simp [Memory.read?, ih]

/-- The bytes of a multi-byte write are read back. -/
theorem Memory.read_writeBytes_mem (vs : List Byte) : ∀ (m : Memory) (a j : Nat) (h : j < vs.length),
    Memory.read? (Memory.writeBytes m a vs) (a + j) = some (vs[j]'h) := by
  have below : ∀ (vs : List Byte) (m : Memory) (a b : Nat), b < a →
      Memory.read? (Memory.writeBytes m a vs) b = Memory.read? m b := by
    intro vs
    induction vs with
    | nil => intros; rfl
    | cons v vs ih =>
      intro m a b hb
      rw [Memory.writeBytes, ih _ _ _ (by omega), Memory.read_write_ne _ _ (by omega)]
  induction vs with
  | nil => intro m a j h; simp at h
  | cons v vs ih =>
    intro m a j h
    rw [Memory.writeBytes]
    cases j with
    | zero => rw [Nat.add_zero, below _ _ _ _ (by omega)]; simp
    | succ j =>
      have := ih (Memory.write m a v) (a + 1) j (by simpa using h)
      rw [show a + (j + 1) = a + 1 + j by omega, this]
      rfl

/-- A multi-byte write leaves every address outside it alone. -/
theorem Memory.read_writeBytes_out (vs : List Byte) : ∀ (m : Memory) (a b : Nat), (b < a ∨ a + vs.length ≤ b) →
    Memory.read? (Memory.writeBytes m a vs) b = Memory.read? m b := by
  induction vs with
  | nil => intros; rfl
  | cons v vs ih =>
    intro m a b h
    simp only [List.length_cons] at h
    rw [Memory.writeBytes, ih _ _ _ (by omega), Memory.read_write_ne _ _ (by omega)]

theorem Memory.wf_cons {k : Nat} {v : Byte} {rest : Memory} :
    Memory.wf ((k, v) :: rest) = true ↔ (∀ c ∈ rest.head?, k < c.1) ∧ Memory.wf rest = true := by
  cases rest with
  | nil => simp [Memory.wf]
  | cons c rest => obtain ⟨k', v'⟩ := c; simp [Memory.wf]

theorem Memory.write_head (m : Memory) (a : Nat) (v : Byte) :
    ∀ c ∈ (Memory.write m a v).head?, c.1 = a ∨ ∃ d ∈ m.head?, c.1 = d.1 := by
  cases m with
  | nil => simp [Memory.write]
  | cons c rest =>
    obtain ⟨k, w⟩ := c
    simp only [Memory.write]
    split
    · simp
    · split <;> simp

/-- A write keeps the canonical form. -/
theorem Memory.write_wf (m : Memory) (a : Nat) (v : Byte) (h : Memory.wf m = true) :
    Memory.wf (Memory.write m a v) = true := by
  induction m with
  | nil => rfl
  | cons c rest ih =>
    obtain ⟨k, w⟩ := c
    rw [Memory.wf_cons] at h
    simp only [Memory.write]
    split
    · rename_i hlt
      rw [Memory.wf_cons]
      exact ⟨by simpa using hlt, Memory.wf_cons.2 h⟩
    · split
      · exact Memory.wf_cons.2 h
      · rw [Memory.wf_cons]
        refine ⟨fun c hc => ?_, ih h.2⟩
        rcases Memory.write_head rest a v c hc with h' | ⟨d, hd, h'⟩
        · omega
        · rw [h']; exact h.1 d hd

/-- A multi-byte write keeps the canonical form. -/
theorem Memory.writeBytes_wf (vs : List Byte) : ∀ (m : Memory) (a : Nat), Memory.wf m = true →
    Memory.wf (Memory.writeBytes m a vs) = true := by
  induction vs with
  | nil => intro m a h; exact h
  | cons v vs ih => intro m a h; exact ih _ _ (Memory.write_wf _ _ _ h)

/-- A write keeps written what was written. -/
theorem Memory.isSome_write (m : Memory) (a b : Nat) (v : Byte) (h : (Memory.read? m b).isSome = true) :
    (Memory.read? (Memory.write m a v) b).isSome = true := by
  by_cases hb : b = a
  · subst hb; simp
  · rwa [Memory.read_write_ne _ _ hb]

/-- The buffers of the reset state are canonical. -/
theorem reset_buffers_wf : Memory.wf State.reset.keybuf = true ∧ Memory.wf State.reset.inbuf = true ∧
    Memory.wf State.reset.outbuf = true := by decide

end Sys2Proof.Machine
end

