-- ==== Sys2Proof/Laws/Status.lean ====
section
/-! SUPPORT. The fields of STATUS after each of its writers (10_state.md R29, R31). -/

namespace Sys2Proof.Machine

theorem mkStatus_busy : ∀ (b d : Bool) (e : BitVec 3), (mkStatus b d e).getLsbD 0 = b := by decide

theorem mkStatus_done : ∀ (b d : Bool) (e : BitVec 3), (mkStatus b d e).getLsbD 1 = d := by decide

theorem mkStatus_err : ∀ (b d : Bool) (e : BitVec 3), (mkStatus b d e).extractLsb' 2 3 = e := by decide

/-- STATUS is its three fields. -/
theorem status_eq_mkStatus (s : State) : s.status = mkStatus s.busy s.done s.err := by
  have h : ∀ x : BitVec 5, x = mkStatus (x.getLsbD 0) (x.getLsbD 1) (x.extractLsb' 2 3) := by decide
  exact h s.status

theorem busy_of_status {s : State} {b d : Bool} {e : BitVec 3} (h : s.status = mkStatus b d e) : s.busy = b := by
  rw [State.busy, h, mkStatus_busy]

theorem done_of_status {s : State} {b d : Bool} {e : BitVec 3} (h : s.status = mkStatus b d e) : s.done = d := by
  rw [State.done, h, mkStatus_done]

theorem err_of_status {s : State} {b d : Bool} {e : BitVec 3} (h : s.status = mkStatus b d e) : s.err = e := by
  rw [State.err, h, mkStatus_err]

@[simp] theorem raise_busy (e : ErrorKind) (s : State) : (raise e s).busy = false := busy_of_status rfl

@[simp] theorem raise_done (e : ErrorKind) (s : State) : (raise e s).done = true := done_of_status rfl

@[simp] theorem raise_err (e : ErrorKind) (s : State) : (raise e s).err = e.code := err_of_status rfl

@[simp] theorem startRun_busy (w : BitVec 2) (s : State) : (startRun w s).busy = true := busy_of_status rfl

@[simp] theorem startRun_done (w : BitVec 2) (s : State) : (startRun w s).done = false := done_of_status rfl

@[simp] theorem startRun_err (w : BitVec 2) (s : State) : (startRun w s).err = 0 := err_of_status rfl

@[simp] theorem statusFinish_busy (s : State) : (statusFinish s).getLsbD 0 = false := mkStatus_busy _ _ _

@[simp] theorem statusFinish_done (s : State) : (statusFinish s).getLsbD 1 = true := mkStatus_done _ _ _

@[simp] theorem statusFinish_err (s : State) : (statusFinish s).extractLsb' 2 3 = s.err := mkStatus_err _ _ _

/-- START while BUSY = 1 does nothing, else it is `startRun` (44_block_controller.md R171). -/
theorem start_of_busy {w : BitVec 2} {s : State} (h : s.busy = true) : start w s = s := by simp [start, h]

theorem start_of_idle {w : BitVec 2} {s : State} (h : s.busy = false) : start w s = startRun w s := by simp [start, h]

end Sys2Proof.Machine
end

