-- ==== Sys2Proof/Laws/Step.lean ====
section
/-! SUPPORT. What each shared operation and one step can do, said once. -/

namespace Sys2Proof.Machine

/-- No instruction is refused. -/
theorem exec_not_refused (i : Instr) (s : State) (r : Refusal) : exec i s ≠ .refused r := by
  cases i <;> simp [exec, execEnc, execDec, execEncp, execDecp, execIdle, execKeychk, execLenchk, execKsPc1,
    execKsRound, execBlkLoad, execBlkRound, execBlkStore, execStrip, execFinish] <;> split <;> simp

/-- An instruction faults only in a round micro-operation whose round index does not exist. -/
theorem exec_fault {i : Instr} {s : State} {f : Fault} (h : exec i s = .fault f) :
    (i = .ksRound ∨ i = .blkRound) ∧ 16 ≤ s.i.toNat ∧ f = .roundIndexOutOfRange s.i := by
  cases i <;> simp only [exec, execEnc, execDec, execEncp, execDecp, execIdle, execKeychk, execLenchk, execKsPc1,
    execKsRound, execBlkLoad, execBlkRound, execBlkStore, execStrip, execFinish, reduceCtorEq] at h
  all_goals
    split at h
    · cases h
    · rename_i hi
      cases h
      exact ⟨by simp, by simpa [Config.nRounds] using hi, rfl⟩

/-- An instruction whose round index exists, where it needs one, answers a next state. -/
theorem exec_next_of_index {i : Instr} {s : State} (h : i = .ksRound ∨ i = .blkRound → s.i.toNat < 16) :
    ∃ t, exec i s = .next t := by
  rcases ho : exec i s with t | f | r
  · exact ⟨t, rfl⟩
  · obtain ⟨hi, hle, -⟩ := exec_fault ho
    have := h hi
    omega
  · exact absurd ho (exec_not_refused i s r)

/-- The micro-operation a phase names, by its number (30_encoding.md R84). -/
theorem decodeUop_eq (c : BitVec 4) (h : c.toNat ≤ 9) : ∃ i, decodeUop c = .ok i ∧ encode i = .uop c := by
  have : ∀ c : BitVec 4, c.toNat ≤ 9 → ∃ i ∈ [Instr.idle, .keychk, .lenchk, .ksPc1, .ksRound, .blkLoad, .blkRound,
      .blkStore, .strip, .finish], decodeUop c = .ok i ∧ encode i = .uop c := by decide
  obtain ⟨i, -, hi⟩ := this c h
  exact ⟨i, hi⟩

/-- A phase code that names nothing is 10 or more. -/
theorem decodeUop_error {c : BitVec 4} {e : DecodeError} (h : decodeUop c = .error e) :
    10 ≤ c.toNat ∧ e = .undefinedPhase c := by
  by_cases hc : c.toNat ≤ 9
  · obtain ⟨i, hi, -⟩ := decodeUop_eq c hc
    rw [hi] at h
    cases h
  · have : ∀ c : BitVec 4, 10 ≤ c.toNat → decodeUop c = .error (.undefinedPhase c) := by decide
    rw [this c (by omega)] at h
    cases h
    exact ⟨by omega, rfl⟩

/-- With no host access pending and a phase that names a micro-operation, a step is that micro-operation. -/
theorem step_of_uop {s : State} {i : Instr} (hq : s.hostq = []) (h : decodeUop s.phase = .ok i) :
    step s = exec i s := by
  simp [step, fetch, hq, fetchUop, h]

/-- With no host access pending and a phase that names none, the machine is stuck. -/
theorem step_of_undefined {s : State} {e : DecodeError} (hq : s.hostq = []) (h : decodeUop s.phase = .error e) :
    step s = .fault (.undefinedPhase s.phase) := by
  obtain ⟨-, rfl⟩ := decodeUop_error h
  simp [step, fetch, hq, fetchUop, h]

/-- What the engine's turn can do: the micro-operation PHASE names, or the stuck fault. -/
theorem fetchUop_cases (s : State) : (∃ i, decodeUop s.phase = .ok i ∧ fetchUop s = .instr i s) ∨
    (10 ≤ s.phase.toNat ∧ fetchUop s = .done (.fault (.undefinedPhase s.phase))) := by
  unfold fetchUop
  split
  · rename_i i hi
    exact .inl ⟨i, hi, rfl⟩
  · rename_i c hc
    obtain ⟨h, hc'⟩ := decodeUop_error hc
    cases hc'
    exact .inr ⟨h, rfl⟩

/-- Everything a step that answers a next state can do: run the micro-operation of PHASE (with the host's list as it
was, or with its engine-step entry taken off), start a run, make a host access that changes no register the engine
uses, write a length or a buffer byte, or reset. -/
theorem step_cases {s t : State} (h : step s = .next t) :
    (∃ q i, (s.hostq = q ∨ s.hostq = .engineStep :: q) ∧ decodeUop s.phase = .ok i ∧
      exec i { s with hostq := q } = .next t) ∨
    (∃ q w, s.hostq = .writeCmd w :: q ∧ t = start w { s with hostq := q }) ∨
    (∃ q r, (s.hostq = .readReg r :: q ∨ (r = .status ∧ s.done = true ∧ s.hostq = .pollDone :: q)) ∧
      t = readReg r { s with hostq := q }) ∨
    (∃ q a, s.hostq = .readOut a :: q ∧ t = readOut a { s with hostq := q }) ∨
    (∃ q n, s.hostq = .writeKlen n :: q ∧ t = writeKlen n { s with hostq := q }) ∨
    (∃ q n, s.hostq = .writeDlen n :: q ∧ t = writeDlen n { s with hostq := q }) ∨
    (∃ q a v, s.hostq = .writeKeybuf a v :: q ∧ s.busy = false ∧
      t = { s with hostq := q, keybuf := Memory.write s.keybuf a v }) ∨
    (∃ q a v, s.hostq = .writeIn a v :: q ∧ s.busy = false ∧
      t = { s with hostq := q, inbuf := Memory.write s.inbuf a v }) ∨
    (∃ q, s.hostq = .reset :: q ∧ t = resetEvent { s with hostq := q }) := by
  rcases s with ⟨cmd, klen, dlen, status, olen, phase, i, b, nblk, wlen, dir, pad, key, c, d, rk, l, r, kb, ib, ob,
    hostq, rdata, draws, resets⟩
  cases hostq with
  | nil =>
    simp only [step, fetch] at h
    rcases fetchUop_cases ⟨cmd, klen, dlen, status, olen, phase, i, b, nblk, wlen, dir, pad, key, c, d, rk, l, r, kb,
      ib, ob, [], rdata, draws, resets⟩ with ⟨j, hj, hf⟩ | ⟨-, hf⟩
    · rw [hf] at h
      exact .inl ⟨[], j, .inl rfl, hj, h⟩
    · rw [hf] at h
      cases h
  | cons a q =>
    have uop : ∀ q', (match fetchUop ⟨cmd, klen, dlen, status, olen, phase, i, b, nblk, wlen, dir, pad, key, c, d, rk,
        l, r, kb, ib, ob, q', rdata, draws, resets⟩ with
        | .instr i t => exec i t
        | .done o => o) = .next t → ∃ j, decodeUop phase = .ok j ∧ exec j ⟨cmd, klen, dlen, status, olen, phase, i, b,
          nblk, wlen, dir, pad, key, c, d, rk, l, r, kb, ib, ob, q', rdata, draws, resets⟩ = .next t := by
      intro q' h'
      rcases fetchUop_cases ⟨cmd, klen, dlen, status, olen, phase, i, b, nblk, wlen, dir, pad, key, c, d, rk, l, r, kb,
        ib, ob, q', rdata, draws, resets⟩ with ⟨j, hj, hf⟩ | ⟨-, hf⟩
      · rw [hf] at h'
        exact ⟨j, hj, h'⟩
      · rw [hf] at h'
        cases h'
    cases a with
    | writeCmd w =>
      have hw : ∀ (w : BitVec 2) (s : State), exec (decodeCmd w) s = .next (start w s) := by
        intro w s
        have : w = 0 ∨ w = 1 ∨ w = 2 ∨ w = 3 := by revert w; decide
        rcases this with rfl | rfl | rfl | rfl <;> rfl
      simp only [step, fetch, fetchAct, hw] at h
      cases h
      exact .inr (.inl ⟨q, w, rfl, rfl⟩)
    | writeKlen n =>
      simp only [step, fetch, fetchAct] at h
      cases h
      exact .inr (.inr (.inr (.inr (.inl ⟨q, n, rfl, rfl⟩))))
    | writeDlen n =>
      simp only [step, fetch, fetchAct] at h
      cases h
      exact .inr (.inr (.inr (.inr (.inr (.inl ⟨q, n, rfl, rfl⟩)))))
    | writeKeybuf k v =>
      simp only [step, fetch, fetchAct, writeKeybuf] at h
      split at h
      · cases h
      · rename_i hb
        cases h
        exact .inr (.inr (.inr (.inr (.inr (.inr (.inl ⟨q, k, v, rfl, by simpa [State.busy] using hb, rfl⟩))))))
    | writeIn k v =>
      simp only [step, fetch, fetchAct, writeIn] at h
      split at h
      · cases h
      · rename_i hb
        cases h
        exact .inr (.inr (.inr (.inr (.inr (.inr (.inr (.inl ⟨q, k, v, rfl, by simpa [State.busy] using hb, rfl⟩)))))))
    | readReg r =>
      simp only [step, fetch, fetchAct] at h
      cases h
      exact .inr (.inr (.inl ⟨q, r, .inl rfl, rfl⟩))
    | readOut k =>
      simp only [step, fetch, fetchAct] at h
      cases h
      exact .inr (.inr (.inr (.inl ⟨q, k, rfl, rfl⟩)))
    | pollDone =>
      simp only [step, fetch, fetchAct] at h
      by_cases hd : State.done ⟨cmd, klen, dlen, status, olen, phase, i, b, nblk, wlen, dir, pad, key, c, d, rk, l, r,
        kb, ib, ob, q, rdata, draws, resets⟩ = true
      · rw [if_pos hd] at h
        cases h
        exact .inr (.inr (.inl ⟨q, .status, .inr ⟨rfl, hd, rfl⟩, rfl⟩))
      · rw [if_neg hd] at h
        obtain ⟨j, hj, he⟩ := uop _ h
        exact .inl ⟨_, j, .inl rfl, hj, he⟩
    | engineStep =>
      simp only [step, fetch, fetchAct] at h
      obtain ⟨j, hj, he⟩ := uop _ h
      exact .inl ⟨q, j, .inr rfl, hj, he⟩
    | reset =>
      simp only [step, fetch, fetchAct] at h
      cases h
      exact .inr (.inr (.inr (.inr (.inr (.inr (.inr (.inr ⟨q, rfl, rfl⟩)))))))

end Sys2Proof.Machine
end

