-- ==== Sys2Proof/Laws/Functions.lean ====
section
/-! SUPPORT. Lemmas about the functions of the datapath and of a run, and about running several steps. -/

namespace Sys2Proof.Machine

/-! ### Registers -/

/-- Position `q` of the word of eight bytes of a view (40_bitconverter.md R104). -/
theorem bitAt_wordOfBytes_readBytes (f : Nat → Byte) (a q : Nat) (h1 : 1 ≤ q) (h64 : q ≤ 64) :
    bitAt (wordOfBytes (readBytes f a 8)) q = (f (a + (q - 1) / 8)).getLsbD (7 - (q - 1) % 8) := by
  have pos : ∀ (ys : List Byte) (i : Nat), i < 8 * ys.length →
      (textToBits ys).getD i false = (ys.getD (i / 8) 0).getLsbD (7 - i % 8) := by
    intro ys
    induction ys with
    | nil => intro i h; simp at h
    | cons y ys ih =>
      intro i h
      rw [textToBits_cons]
      by_cases h8 : i < 8
      · rw [List.getD_append _ _ _ _ (by simpa using h8), getD_toBits, BitVec.getMsbD,
          show i / 8 = 0 by omega, show i % 8 = i by omega]
        simp [h8]
      · rw [List.getD_append_right _ _ _ _ (by simp; omega), length_toBits,
          ih _ (by simp only [List.length_cons] at h; omega), show i / 8 = (i - 8) / 8 + 1 by omega,
          show i % 8 = (i - 8) % 8 by omega]
        simp
  rw [wordOfBytes, bitAt_ofBits (by simp), pos _ _ (by simp; omega), getD_readBytes _ _ _ _ (by omega)]

/-- The bits of the upper part of a register. -/
theorem getMsbD_extract_hi {m n : Nat} (x : BitVec (m + n)) (i : Nat) (h : i < m) :
    (x.extractLsb' n m).getMsbD i = x.getMsbD i := by
  simp only [BitVec.getMsbD, h, decide_true, Bool.true_and, BitVec.getLsbD_extractLsb']
  rw [show decide (i < m + n) = true by simp; omega, show decide (m - 1 - i < m) = true by simp; omega,
    show n + (m - 1 - i) = m + n - 1 - i by omega]

/-- The bits of the lower part of a register. -/
theorem getMsbD_extract_lo {m n : Nat} (x : BitVec (m + n)) (i : Nat) (h : i < n) :
    (x.extractLsb' 0 n).getMsbD i = x.getMsbD (m + i) := by
  simp only [BitVec.getMsbD, h, decide_true, Bool.true_and, BitVec.getLsbD_extractLsb']
  rw [show decide (m + i < m + n) = true by simp; omega, show decide (n - 1 - i < n) = true by simp; omega,
    show 0 + (n - 1 - i) = m + n - 1 - (m + i) by omega]

/-- A position of two registers side by side. -/
theorem bitAt_append {m n : Nat} (x : BitVec m) (y : BitVec n) (p : Nat) (h1 : 1 ≤ p) :
    bitAt (x ++ y) p = if p ≤ m then bitAt x p else bitAt y (p - m) := by
  simp only [bitAt, BitVec.getMsbD_append]
  split <;> split <;> first | omega | rfl | (congr 1; omega)

/-- The round index counts up without wrapping (10_state.md R26). -/
theorem toNat_index_succ (i : BitVec 5) (h : i.toNat < 16) : (i + 1).toNat = i.toNat + 1 := by
  rw [BitVec.toNat_add]
  simp
  omega

/-! ### Round keys -/

theorem shiftCount_le (i : Nat) : shiftCount i ≤ 28 := by
  unfold shiftCount
  by_cases h : i < 16
  · have : ∀ i, i < 16 → tableShift.getD i 0 ≤ 28 := by decide
    exact this i h
  · rw [List.getD_eq_default _ _ (by simp [tableShift]; omega)]
    omega

theorem getElem?_ks (k : KeyWord) (i : Nat) (h : i < 16) : (ks k)[i]? = some (keyOf k i) := by simp [ks, h]

/-- The round key a round uses is an entry of the register file (30_encoding.md R89). -/
theorem getElem?_roundKeyIndex (rk : RoundKeys) (dir : Bool) (i : Nat) (h : i < 16) :
    rk[roundKeyIndex dir i]? = some (roundKeyAt rk dir i) := by
  unfold roundKeyAt roundKeyIndex
  cases dir <;> simp <;> rw [Vector.getElem?_eq_getElem (by omega)] <;> simp

/-! ### Runs -/

theorem ecb_cons (rk : RoundKeys) (dir : Bool) (ys : List Byte) (h : 8 ≤ ys.length) :
    ecb rk dir ys = bytesOfWord (blockCipher rk dir (wordOfBytes (ys.take 8))) ++ ecb rk dir (ys.drop 8) := by
  match ys, h with
  | b0 :: b1 :: b2 :: b3 :: b4 :: b5 :: b6 :: b7 :: rest, _ => rfl

theorem ecb_short (rk : RoundKeys) (dir : Bool) (ys : List Byte) (h : ys.length < 8) : ecb rk dir ys = [] := by
  match ys with
  | [] | [_] | [_, _] | [_, _, _] | [_, _, _, _] | [_, _, _, _, _] | [_, _, _, _, _, _] | [_, _, _, _, _, _, _] => rfl
  | b0 :: b1 :: b2 :: b3 :: b4 :: b5 :: b6 :: b7 :: rest => simp at h; omega

/-- Whole blocks in, whole blocks out. -/
theorem length_ecb (rk : RoundKeys) (dir : Bool) (ys : List Byte) : (ecb rk dir ys).length = 8 * (ys.length / 8) := by
  have : ∀ (n : Nat) (ys : List Byte), ys.length / 8 = n → (ecb rk dir ys).length = 8 * n := by
    intro n
    induction n with
    | zero => intro ys h; rw [ecb_short _ _ _ (by omega)]; rfl
    | succ n ih =>
      intro ys h
      rw [ecb_cons _ _ _ (by omega), List.length_append, length_bytesOfWord, ih _ (by simp; omega)]
      omega
  exact this _ ys rfl

theorem workingText_encp (data : List Byte) :
    workingText data false true = .ok (data ++ List.replicate (8 - data.length % 8) Config.padByte) := rfl

theorem workingText_aligned {data : List Byte} {dir pad : Bool} (h : data.length % 8 = 0)
    (hp : ¬(pad = true ∧ dir = false)) : workingText data dir pad = .ok data := by
  cases dir <;> cases pad <;> simp_all [workingText]

theorem workingText_unaligned {data : List Byte} {dir pad : Bool} (h : data.length % 8 ≠ 0)
    (hp : ¬(pad = true ∧ dir = false)) : workingText data dir pad = .error .unalignedData := by
  cases dir <;> cases pad <;> simp_all [workingText]

/-- A run past its two checks. -/
theorem run_of_workingText {key data text : List Byte} {dir pad : Bool} (h : 8 ≤ key.length)
    (hw : workingText data dir pad = .ok text) : run key data dir pad =
      if pad && dir then stripPad (ecb (ks (wordOfBytes (key.take 8))) dir text)
      else .ok (ecb (ks (wordOfBytes (key.take 8))) dir text) := by
  simp only [run, show ¬key.length < 8 by omega, if_false, hw]

/-! ### Steps -/

/-- A host write of CMD is START, whichever command its word names (44_block_controller.md R171). -/
theorem exec_decodeCmd (w : BitVec 2) (s : State) : exec (decodeCmd w) s = .next (start w s) := by
  have : w = 0 ∨ w = 1 ∨ w = 2 ∨ w = 3 := by revert w; decide
  rcases this with rfl | rfl | rfl | rfl <;> rfl

/-- And so is the command of that code. -/
theorem exec_of_encode_cmd {i : Instr} {w : BitVec 2} (h : encode i = .cmd w) (s : State) :
    exec i s = .next (start w s) := by
  cases i <;> simp [encode] at h <;> subst h <;> rfl

theorem steps_zero (s : State) : steps 0 s = .next s := rfl

theorem steps_succ {n : Nat} {s t : State} (h : step s = .next t) : steps (n + 1) s = steps n t := by
  show Host.Core.run Sys2Proof.core (n + 1) s = Host.Core.run Sys2Proof.core n t
  have : Sys2Proof.core.step s = .next t := h
  simp only [Host.Core.run, this]

end Sys2Proof.Machine
end

