-- ==== Sys2Proof/Laws/PerInstr.lean ====
section
/-! SUPPORT. The per-instruction statements: what each instruction is as syntax. -/

namespace Sys2Proof.Laws.Encoding

/-- An instruction is well-formed, its code names an operation, and the decoder reads the instruction back from it
(30_encoding.md R82, R84). -/
def Statement (i : Instr) : Prop :=
  i.wf = true ∧ (encode i).wf = true ∧ decode (encode i) = .ok i

theorem enc : Statement .enc := by unfold Statement; decide
theorem dec : Statement .dec := by unfold Statement; decide
theorem encp : Statement .encp := by unfold Statement; decide
theorem decp : Statement .decp := by unfold Statement; decide
theorem idle : Statement .idle := by unfold Statement; decide
theorem keychk : Statement .keychk := by unfold Statement; decide
theorem lenchk : Statement .lenchk := by unfold Statement; decide
theorem ksPc1 : Statement .ksPc1 := by unfold Statement; decide
theorem ksRound : Statement .ksRound := by unfold Statement; decide
theorem blkLoad : Statement .blkLoad := by unfold Statement; decide
theorem blkRound : Statement .blkRound := by unfold Statement; decide
theorem blkStore : Statement .blkStore := by unfold Statement; decide
theorem strip : Statement .strip := by unfold Statement; decide
theorem finish : Statement .finish := by unfold Statement; decide

end Sys2Proof.Laws.Encoding
end

