-- ==== Sys2Proof/Tests/Slice0.lean ====
section
/-! SUPPORT. The model's own tests: expected values from spec/ (95_test_vectors.md unless another file is named), and for
each obligation with hypotheses a theorem that meets them. -/

namespace Sys2Proof.Tests

open Sys2Proof.Machine

/-! ## Helpers -/

def next? : Host.Outcome State Fault Refusal → Option State
  | .next t => some t
  | .fault _ => none
  | .refused _ => none

def fault? : Host.Outcome State Fault Refusal → Option Fault
  | .next _ => none
  | .fault f => some f
  | .refused _ => none

/-- A field of the state after one instruction. -/
def after {α : Type} (i : Instr) (s : State) (f : State → α) : Option α := (next? (exec i s)).map f

/-- A field of the state after one step. -/
def stepped {α : Type} (s : State) (f : State → α) : Option α := (next? (step s)).map f

/-- A run under way in a phase: BUSY = 1, DONE = 0, ERR = 0. -/
def inPhase (p : BitVec 4) : State := { State.reset with status := 0b00001#5, phase := p }

/-- The key 13 34 57 79 9B BC DF F1 in KEYBUF. -/
def classicKey : Memory :=
  [(0, 0x13), (1, 0x34), (2, 0x57), (3, 0x79), (4, 0x9B), (5, 0xBC), (6, 0xDF), (7, 0xF1)]

/-- The block 01 23 45 67 89 AB CD EF in IN or OUT. -/
def classicBlock : Memory :=
  [(0, 0x01), (1, 0x23), (2, 0x45), (3, 0x67), (4, 0x89), (5, 0xAB), (6, 0xCD), (7, 0xEF)]

/-- The state before a run of the classic example. -/
def ready : State := { State.reset with klen := 8, dlen := 8, keybuf := classicKey, inbuf := classicBlock }

/-! ## Well-formedness -/

theorem test_wf_code : Code.wf (.uop 0b1010#4) = false ∧ Code.wf (.uop 0b1111#4) = false ∧
    Code.wf (.uop 0b1001#4) = true ∧ Code.wf (.cmd 0b11#2) = true := by decide

theorem test_wf_table : tableOk 64 3 [1, 2] = false ∧ tableOk 64 2 [0, 1] = false ∧ tableOk 64 2 [1, 65] = false ∧
    tableOk 64 2 [1, 64] = true := by decide

theorem test_wf_instr : Instr.wf .enc = true ∧ Instr.wf .finish = true := by decide

/-! ## Decoding: words written out from 30_encoding.md R81, R82 and R84 -/

theorem test_decode_commands : decode (.cmd 0b00#2) = .ok .enc ∧ decode (.cmd 0b01#2) = .ok .dec ∧
    decode (.cmd 0b10#2) = .ok .encp ∧ decode (.cmd 0b11#2) = .ok .decp := by decide

theorem test_decode_uops : decode (.uop 0b0000#4) = .ok .idle ∧ decode (.uop 0b0001#4) = .ok .keychk ∧
    decode (.uop 0b0010#4) = .ok .lenchk ∧ decode (.uop 0b0011#4) = .ok .ksPc1 ∧
    decode (.uop 0b0100#4) = .ok .ksRound ∧ decode (.uop 0b0101#4) = .ok .blkLoad ∧
    decode (.uop 0b0110#4) = .ok .blkRound ∧ decode (.uop 0b0111#4) = .ok .blkStore ∧
    decode (.uop 0b1000#4) = .ok .strip ∧ decode (.uop 0b1001#4) = .ok .finish := by decide

theorem test_decode_rejects : decode (.uop 0b1010#4) = .error (.undefinedPhase 0b1010#4) ∧
    decode (.uop 0b1111#4) = .error (.undefinedPhase 0b1111#4) := by decide

theorem test_table_words : decodeTableWord 2 0b10 = some .encp ∧ decodeTableWord 4 0b0001 = some .keychk ∧
    decodeTableWord 8 0b01 = some .dec ∧ decodeTableWord 8 0b1001 = some .finish ∧
    decodeTableWord 8 0b1010 = none := by decide

theorem test_with_fetch_word : stepped (State.reset.withFetchWord 2 0b01) (fun t => (t.phase, t.dir, t.hostq)) =
    some (0b0001#4, true, []) ∧
    stepped (State.reset.withFetchWord 4 0b1001) (fun t => (t.phase, t.status)) = some (0b0000#4, 0b00010#5) := by decide

/-! ## Functions -/

theorem test_text_to_bits : textToBits [0x48, 0x69] = [false, true, false, false, true, false, false, false,
    false, true, true, false, true, false, false, true] := by decide -- 40_bitconverter.md R100, "Hi"

theorem test_value_to_binary : valueToBinaryString 12 4 = .ok [true, true, false, false] ∧
    valueToBinaryString 16 4 = .error .valueTooLarge := by decide -- 40_bitconverter.md R102

theorem test_rotl : rotl (0x8000000#28) 1 = 0x0000001#28 ∧ rotl (0xC000000#28) 2 = 0x0000003#28 ∧
    rotl (0xF0CCAAF#28) 1 = 0xE19955F#28 := by decide -- section 2.1

theorem test_pc1 : pc1Split 0x133457799BBCDFF1#64 = (0xF0CCAAF#28, 0x556678F#28) ∧
    pc1Split 0x0000000000000002#64 = (0, 0x8000000#28) := by decide +kernel -- section 2.2

theorem test_pc2 : pc2Key 0xE19955F#28 0xAACCF1E#28 = 0x1B02EFFC7072#48 ∧
    pc2Key 0x0000001#28 0 = 0x010000000000#48 := by decide +kernel -- section 2.2

theorem test_last_key : keyOf 0x133457799BBCDFF1#64 15 = 0xCB3D8B0E17F5#48 := by decide +kernel -- section 2.3

theorem test_expand : expand 0xF0AAF0AA#32 = 0x7A15557A1555#48 ∧ expand 0x00000001#32 = 0x800000000002#48 := by
  decide +kernel -- section 3.1

theorem test_srom : romRead 88 = 12 ∧ romRead 143 = 8 ∧ romRead 304 = 11 ∧ romRead 499 = 7 := by decide -- section 3.3

theorem test_subst : subst 0x6117BA866527#48 = 0x5C82B597#32 ∧ subst 0 = 0xEFA72C4D#32 ∧
    subst 0xFFFFFFFFFFFF#48 = 0xD9CE3DCB#32 := by decide +kernel -- sections 3.2, 3.3

theorem test_pbox : pbox 0x5C82B597#32 = 0x234AA9BB#32 ∧ pbox 0x80000000#32 = 0x00800000#32 := by
  decide +kernel -- section 3.4

theorem test_block : blockCipher (ks 0x133457799BBCDFF1#64) false 0x0123456789ABCDEF#64 = 0x85E813540F0AB405#64 := by
  decide +kernel -- 44_block_controller.md R177

theorem test_strip_pad : stripPad [0x41, 0x42, 0x43, 0x44, 0x45, 3, 3, 3] = .ok [0x41, 0x42, 0x43, 0x44, 0x45] ∧
    stripPad [1, 1, 1, 1, 1, 1, 1, 9] = .error .padStripError := by decide -- 44_block_controller.md R176, R187

/-! ## One instruction -/

theorem test_enc : after .enc State.reset (fun t => (t.phase, t.status, t.dir, t.pad)) =
    some (0b0001#4, 0b00001#5, false, false) := by decide

theorem test_dec : after .dec State.reset (fun t => (t.dir, t.pad)) = some (true, false) := by decide

theorem test_encp : after .encp State.reset (fun t => (t.dir, t.pad)) = some (false, true) := by decide

theorem test_decp_clears : after .decp { State.reset with status := 0b10110#5, olen := 7 }
    (fun t => (t.status, t.olen, t.dir, t.pad)) = some (0b00001#5, 0, true, true) := by decide

theorem test_decp_busy : after .decp (inPhase 2) (fun t => (t.phase, t.dir)) = some (2, false) := by decide

theorem test_idle : after .idle State.reset id = some State.reset := by decide +kernel

theorem test_keychk : after .keychk { ready with phase := 1 } (fun t => (t.key, t.phase)) =
    some (0x133457799BBCDFF1#64, 2) := by decide +kernel

theorem test_keychk_short : after .keychk { ready with klen := 7, olen := 3 }
    (fun t => (t.key, t.status, t.olen, t.phase)) = some (0, 0b00110#5, 0, 0) := by decide

theorem test_lenchk_pads : after .lenchk { State.reset with dlen := 8, pad := true } (fun t => (t.wlen, t.nblk)) =
    some (16, 2) := by decide

theorem test_lenchk_unaligned : after .lenchk { State.reset with dlen := 7, pad := true, dir := true }
    (fun t => (t.status, t.phase)) = some (0b01010#5, 0) := by decide

theorem test_ks_pc1 : after .ksPc1 { State.reset with key := 0x133457799BBCDFF1#64 } (fun t => (t.c, t.d, t.phase)) =
    some (0xF0CCAAF#28, 0x556678F#28, 4) := by decide +kernel

theorem test_ks_round : after .ksRound { inPhase 4 with c := 0xF0CCAAF#28, d := 0x556678F#28 }
    (fun t => (t.c, t.d, t.rk[0]?, t.i, t.phase)) =
    some (0xE19955F#28, 0xAACCF1E#28, some 0x1B02EFFC7072#48, 1, 4) := by decide +kernel

theorem test_ks_round_last : after .ksRound { inPhase 4 with c := 0xF866557#28, d := 0xAAB33C7#28, i := 15, b := 9 }
    (fun t => (t.c, t.rk[15]?, t.b, t.phase)) = some (0xF0CCAAF#28, some 0xCB3D8B0E17F5#48, 0, 9) := by
  decide +kernel -- section 2.3, NBLK = 0

theorem test_blk_load : after .blkLoad { ready with phase := 5, wlen := 8, nblk := 1 } (fun t => (t.l, t.r)) =
    some (0xCC00CCFF#32, 0xF0AAF0AA#32) := by decide +kernel

theorem test_blk_load_pads : after .blkLoad { State.reset with phase := 5, wlen := 8, nblk := 1 }
    (fun t => (t.l, t.r)) = some (0#32, 0x00FF0000#32) := by decide +kernel -- eight pad bytes: positions 8k+3 are IP's 41..48

theorem test_blk_round : after .blkRound { inPhase 6 with
    l := 0xCC00CCFF#32, r := 0xF0AAF0AA#32
    rk := State.reset.rk.set 0 0x1B02EFFC7072#48 } (fun t => (t.l, t.r, t.i)) =
    some (0xF0AAF0AA#32, 0xEF4A6544#32, 1) := by decide +kernel

theorem test_blk_round_decrypt : after .blkRound { inPhase 6 with
    l := 0xCC00CCFF#32, r := 0xF0AAF0AA#32, dir := true
    rk := State.reset.rk.set 15 0x1B02EFFC7072#48 } (fun t => t.r) = some 0xEF4A6544#32 := by decide +kernel

theorem test_blk_store : after .blkStore { inPhase 7 with l := 0x43423234#32, r := 0x0A4CD995#32, nblk := 1 }
    (fun t => (t.outbuf, t.b, t.phase)) = some ([(0, 0x85), (1, 0xE8), (2, 0x13), (3, 0x54), (4, 0x0F), (5, 0x0A),
      (6, 0xB4), (7, 0x05)], 1, 9) := by decide +kernel

theorem test_strip : after .strip { inPhase 8 with wlen := 40, outbuf := [(39, 0x20)] } (fun t => (t.olen, t.phase)) =
    some (8, 9) := by decide

theorem test_strip_fails : after .strip { inPhase 8 with wlen := 8, outbuf := [(7, 0x09)] } (fun t => (t.err, t.olen)) =
    some (5, 0) := by decide

theorem test_finish : after .finish { inPhase 9 with wlen := 40 } (fun t => (t.olen, t.status, t.phase)) =
    some (40, 0b00010#5, 0) := by decide

theorem test_finish_decp : after .finish { inPhase 9 with wlen := 40, olen := 8, pad := true, dir := true }
    (fun t => t.olen) = some 8 := by decide

/-! ## Memory -/

theorem test_memory : Memory.write (Memory.write [(1, 5)] 3 7) 2 6 = [(1, 5), (2, 6), (3, 7)] ∧
    Memory.write [(1, 5), (2, 6)] 1 9 = [(1, 9), (2, 6)] ∧ Memory.wf [(2, 0), (2, 1)] = false ∧
    Memory.wf [(3, 0), (2, 1)] = false := by decide

/-! ## Witnesses: for each obligation with hypotheses, states and operands that meet them, clause by clause -/

/-- A run of the classic example in BLK_LOAD of its one block, the round keys made. -/
def atLoad : State := { ready with
  status := 0b00001#5, phase := 5, wlen := 8, nblk := 1, i := 16
  key := keyWord ready, rk := ks (keyWord ready) }

/-- A DECP run in STRIP after one block whose text ends in 02. -/
def atStrip : State := { ready with
  status := 0b00001#5, phase := 8, wlen := 8, nblk := 1, b := 1, pad := true, dir := true
  outbuf := [(0, 0x41), (1, 0x42), (2, 0x43), (3, 0x44), (4, 0x45), (5, 0x46), (6, 0x02), (7, 0x02)] }

/-- The state after an ENC run of no bytes. -/
def finished : State := { State.reset with status := 0b00010#5, klen := 8 }

theorem written_below_eight (m : Memory) (h : ∀ a ∈ List.range 8, (Memory.read? m a).isSome = true) :
    WrittenBelow m 8 := fun a ha => h a (List.mem_range.2 ha)

theorem inv_atLoad : Inv atLoad where
  keybufWf := by decide
  inbufWf := by decide
  outbufWf := by decide
  phaseDefined := by decide
  busyIff := by decide
  notBusyDone := by decide
  errDone := by decide
  errCode := by decide
  errOlen := fun _ => rfl
  busyOlen := fun _ _ => rfl
  finishOlen := fun h => absurd h (by decide)
  keyLong := fun _ => Nat.le_refl 8
  lengths := fun _ => ⟨rfl, rfl⟩
  roundIndex := fun h => absurd h (by decide)
  storeIndex := fun h => absurd h (by decide)
  blockIndex := fun _ _ => ⟨Nat.one_pos, fun a ha => absurd ha (Nat.not_lt_zero a)⟩
  stripOnly := fun h => absurd h (by decide)
  allStored := fun h => absurd h (by decide)
  resultWritten := fun h => absurd h (by decide)

theorem inv_atStrip : Inv atStrip where
  keybufWf := by decide
  inbufWf := by decide
  outbufWf := by decide
  phaseDefined := by decide
  busyIff := by decide
  notBusyDone := by decide
  errDone := by decide
  errCode := by decide
  errOlen := fun _ => rfl
  busyOlen := fun _ _ => rfl
  finishOlen := fun h => absurd h (by decide)
  keyLong := fun _ => Nat.le_refl 8
  lengths := fun _ => ⟨rfl, rfl⟩
  roundIndex := fun h => absurd h (by decide)
  storeIndex := fun h => absurd h (by decide)
  blockIndex := fun _ h => absurd h (by decide)
  stripOnly := fun _ => ⟨rfl, rfl⟩
  allStored := fun _ => written_below_eight _ (by decide)
  resultWritten := fun h => absurd h (by decide)

theorem dataInv_atLoad : DataInv atLoad where
  key := fun _ => rfl
  schedule := fun h => absurd h (by decide)
  keys := fun _ => rfl
  rounds := fun h => absurd h (by decide)
  stored := fun _ _ j hj => absurd hj (Nat.not_lt_zero j)
  storedAll := fun h => absurd h (by decide)

theorem witness_DecodeInvertsEncode : Instr.wf .strip = true ∧ decode (.uop 0b1001#4) = .ok .finish ∧
    decode (.cmd 0b11#2) = .ok .decp ∧ Code.wf (.uop 0b1010#4) = false ∧ Code.wf (.uop 0b1001#4) = true := by decide

theorem witness_StepRunsDecodedInstruction :
    ((inPhase 9).hostq = [] ∧ decode (.uop (inPhase 9).phase) = .ok .finish) ∧
    ({ inPhase 1 with hostq := [.engineStep, .reset] }.hostq = .engineStep :: [.reset] ∧
      decode (.uop (inPhase 1).phase) = .ok .keychk) ∧
    ({ inPhase 6 with hostq := [.pollDone] }.hostq = .pollDone :: [] ∧ (inPhase 6).done = false ∧
      decode (.uop (inPhase 6).phase) = .ok .blkRound) ∧
    ({ State.reset with hostq := [.writeCmd 3] }.hostq = .writeCmd 3 :: [] ∧ decode (.cmd 3) = .ok .decp) := by decide

theorem witness_UndefinedPhaseIsStuck :
    (10 ≤ (inPhase 10).phase.toNat ∧ (inPhase 10).hostq = []) ∧
    (10 ≤ (inPhase 15).phase.toNat ∧ (inPhase 15).hostq = []) := by decide

theorem witness_StartEffect : (encode .decp = .cmd 3 ∧ State.reset.busy = false) ∧
    (encode .enc = .cmd 0 ∧ (inPhase 1).busy = true) ∧
    stepped { State.reset with hostq := [.writeCmd 0] } (fun t => decide (t.phase = 0)) = some false := by decide

theorem witness_KeychkEffect : 8 ≤ ready.klen ∧ { ready with klen := 7 }.klen < 8 := by decide

theorem witness_LenchkEffect :
    ({ ready with pad := true }.pad = true ∧ { ready with pad := true }.dir = false) ∧
    (¬(ready.pad = true ∧ ready.dir = false) ∧ ready.dlen % 8 = 0) ∧
    (¬(atStrip.pad = true ∧ atStrip.dir = false) ∧ { atStrip with dlen := 7 }.dlen % 8 ≠ 0) := by decide

theorem witness_KsRoundEffect :
    ((inPhase 4).i.toNat = 0 ∧ 1 = [1, 1, 2, 2, 2, 2, 2, 2, 1, 2, 2, 2, 2, 2, 2, 1].getD 0 0) ∧
    ({ inPhase 4 with i := 15 }.i.toNat = 15 ∧ 1 = [1, 1, 2, 2, 2, 2, 2, 2, 1, 2, 2, 2, 2, 2, 2, 1].getD 15 0) ∧
    ({ inPhase 4 with i := 14 }.i.toNat = 14 ∧ 2 = [1, 1, 2, 2, 2, 2, 2, 2, 1, 2, 2, 2, 2, 2, 2, 1].getD 14 0) := by
  decide

theorem witness_BlkLoadEffect : 58 = tableIP.getD (1 - 1) 0 ∧ 8 = tableIP.getD (32 - 1) 0 ∧
    57 = tableIP.getD (33 - 1) 0 ∧ 7 = tableIP.getD (64 - 1) 0 := by decide

theorem witness_BlkRoundEffect : (inPhase 6).i.toNat = 0 ∧ { inPhase 6 with i := 15 }.i.toNat = 15 := by decide

theorem witness_BlkStoreEffect : storeAddr { inPhase 7 with b := 1 } = 8 ∧ 7 < storeAddr { inPhase 7 with b := 1 } ∧
    storeAddr { inPhase 7 with b := 1 } + 8 ≤ 16 := by decide

theorem witness_StripEffect :
    (2 = (outByte atStrip (atStrip.wlen - 1)).toNat ∧ 2 ≤ atStrip.wlen) ∧
    (8 = (outByte { atStrip with outbuf := [(7, 8)] } (atStrip.wlen - 1)).toNat ∧ 8 ≤ atStrip.wlen) ∧
    (9 = (outByte { atStrip with outbuf := [(7, 9)] } (atStrip.wlen - 1)).toNat ∧ atStrip.wlen < 9) ∧
    0 = (outByte { atStrip with outbuf := [(7, 0)] } (atStrip.wlen - 1)).toNat ∧
    { atStrip with wlen := 0 }.wlen = 0 := by decide

theorem witness_RoundIndexStops : 16 ≤ { inPhase 4 with i := 16 }.i.toNat ∧ 16 ≤ { inPhase 6 with i := 31 }.i.toNat := by
  decide

theorem witness_TextViewPads :
    after .lenchk { State.reset with dlen := 33, pad := true } (fun t => (t.phase, t.dlen, t.wlen)) = some (3, 33, 40) ∧
    after .lenchk ready (fun t => (t.phase, t.dlen, t.wlen)) = some (3, 8, 8) := by decide

theorem witness_AbortEffect : { ready with klen := 7 }.klen < 8 ∧
    ({ ready with dlen := 9 }.dlen % 8 ≠ 0 ∧ ¬(ready.pad = true ∧ ready.dir = false)) ∧
    { atStrip with wlen := 0 }.wlen = 0 ∧
    (outByte { atStrip with outbuf := [(7, 0)] } (atStrip.wlen - 1)).toNat = 0 ∧
    atStrip.wlen < (outByte { atStrip with outbuf := [(7, 9)] } (atStrip.wlen - 1)).toNat := by decide

theorem witness_InternalErrorsUnreachable : ∃ t, exec .strip atStrip = .next t := exec_next_of_index (by decide)

theorem witness_StatusWriters :
    after .enc State.reset (fun t => decide (t.status = State.reset.status)) = some false ∧
    after .finish (inPhase 9) (fun t => decide (t.status = (inPhase 9).status)) = some false ∧
    after .keychk (inPhase 1) (fun t => decide (t.status = (inPhase 1).status)) = some false := by decide

theorem witness_RegisterWriters :
    after .keychk { ready with phase := 1 } (fun t => decide (t.key = ready.key)) = some false ∧
    after .blkLoad { ready with phase := 5 } (fun t => decide (t.l = ready.l)) = some false ∧
    after .lenchk ready (fun t => decide (t.wlen = ready.wlen)) = some false ∧
    after .strip atStrip (fun t => decide (t.olen = atStrip.olen)) = some false ∧
    after .decp ready (fun t => decide (t.dir = ready.dir)) = some false := by decide +kernel

theorem witness_PermutePositions : tableOk 64 64 tableIP = true ∧ tableOk 32 48 tableE = true ∧
    tableOk 56 48 tablePC2 = true := by decide

theorem witness_InitialPermutationInverse : tableIP.getD (1 - 1) 0 = 58 ∧ tableFP.getD (58 - 1) 0 = 1 ∧
    tableIP.getD (64 - 1) 0 = 7 ∧ tableFP.getD (7 - 1) 0 = 64 := by decide

theorem witness_SboxRowsArePermutations : 7 < 8 ∧ 3 < 4 ∧ romRead (BitVec.ofNat 9 (64 * 7 + 16 * 3 + 15)) = 11 := by
  decide

theorem witness_RotlLaws : 28 ≤ 28 ∧ 1 ≤ 28 ∧ rotl (0x8000000#28) 28 = 0x8000000#28 := by decide

theorem witness_CumulativeRotation : 1 ≤ 16 ∧ 16 ≤ 16 ∧ (tableShift.take 16).sum = 28 := by decide

theorem witness_BitConverterPositions : ([true] : BitSeq).length % 8 ≠ 0 ∧
    (List.replicate 16 true : BitSeq).length % 8 = 0 ∧ 2 ^ 4 ≤ 16 ∧ 15 < 2 ^ 4 := by decide

theorem witness_BitConverterInverse : (List.replicate 16 true : BitSeq).length % 8 = 0 ∧ 255 < 2 ^ 8 := by decide

theorem witness_ParityIndependence : ∀ p : Nat, p < 65 → p % 8 ≠ 0 →
    bitAt 0x133457799BBCDFF1#64 p = bitAt 0x123456789ABCDEF0#64 p := by decide +kernel

theorem witness_DegenerateKeys :
    ((pc1Split 0x0101010101010101#64).1 = 0 ∧ (pc1Split 0x0101010101010101#64).2 = 0) ∧
    ((pc1Split 0xFFFFFFFFFFFFFFFF#64).1 = BitVec.allOnes 28 ∧ (pc1Split 0xFFFFFFFFFFFFFFFF#64).2 = BitVec.allOnes 28) := by
  decide +kernel

theorem witness_FeistelStages :
    (3 = 2 * (bitAt (0x000000000027#48) 43).toNat + (bitAt (0x000000000027#48) 48).toNat ∧
    3 = 8 * (bitAt (0x000000000027#48) 44).toNat + 4 * (bitAt (0x000000000027#48) 45).toNat +
      2 * (bitAt (0x000000000027#48) 46).toNat + (bitAt (0x000000000027#48) 47).toNat) ∧ 43 = 6 * 7 + 1 := by decide

theorem witness_CommandOutcomes : ([1, 2] : List Byte).length < 8 ∧
    8 ≤ (List.replicate 8 0x31 : List Byte).length ∧ ([1] : List Byte).length % 8 ≠ 0 ∧
    (List.replicate 16 0 : List Byte).length % 8 = 0 ∧ ([7, 3] : List Byte).getLast? = some 3 := by decide

/-- A run of two blocks without pad succeeds. -/
theorem witness_BlocksIndependent : (∃ out, run (List.replicate 8 1) (List.replicate 16 2) true false = .ok out) ∧
    8 * 1 < (List.replicate 16 2 : List Byte).length :=
  ⟨⟨_, by rw [run_of_workingText (by decide) (workingText_aligned (by decide) (by decide))]; rfl⟩, by decide⟩

theorem witness_RunRoundTrip : 8 ≤ (List.replicate 9 1 : List Byte).length ∧
    (List.replicate 16 2 : List Byte).length % 8 = 0 := by decide

theorem witness_PaddingLaws : 8 ≤ (List.replicate 8 1 : List Byte).length := by decide

/-- Bytes 02 and 03 differ in the parity bit only. -/
theorem witness_KeyTruncation : (List.replicate 8 1 : List Byte).length = 8 ∧
    (8 ≤ (List.replicate 8 2 : List Byte).length ↔ 8 ≤ (List.replicate 9 3 : List Byte).length) ∧
    ∀ k, k < 8 → ∀ j, j < 8 → 1 ≤ j → ((List.replicate 8 2 : List Byte).getD k 0).getLsbD j =
      ((List.replicate 9 3 : List Byte).getD k 0).getLsbD j := by decide

theorem witness_StepKeepsInv : Inv atStrip ∧ ∃ t, step atStrip = .next t :=
  ⟨inv_atStrip, by rw [step_of_uop (i := .strip) rfl rfl]; exact exec_next_of_index (by decide)⟩

/-- In the first state a step completes; in the second the host's move is refused. -/
theorem witness_StepCompletesUnderInv : Inv atLoad ∧ Inv { atLoad with hostq := [.writeIn 0 0] } ∧
    { atLoad with hostq := [.writeIn 0 0] }.busy = true :=
  ⟨inv_atLoad, ⟨inv_atLoad.1, inv_atLoad.2, inv_atLoad.3, inv_atLoad.4, inv_atLoad.5, inv_atLoad.6, inv_atLoad.7,
    inv_atLoad.8, inv_atLoad.9, inv_atLoad.10, inv_atLoad.11, inv_atLoad.12, inv_atLoad.13, inv_atLoad.14,
    inv_atLoad.15, inv_atLoad.16, inv_atLoad.17, inv_atLoad.18, inv_atLoad.19⟩, by decide⟩

/-- Another buffer that agrees on the bytes read: KEYBUF from index 8 on, any KEYBUF with KLEN = 7, IN from index 8 on, OUT
below its last byte, any OUT with WLEN = 0. -/
theorem witness_AccessesInRange :
    ((∀ k, k < 8 → keyByte { ready with keybuf := classicKey ++ [(8, 1)] } k = keyByte ready k) ∧
      ¬8 ≤ { ready with klen := 7 }.klen) ∧
    (Inv atLoad ∧ atLoad.phase = phaseBlkLoad) ∧
    (∀ k, k < 8 → textByte { atLoad with inbuf := classicBlock ++ [(8, 1)] } (8 * atLoad.b + k) =
      textByte atLoad (8 * atLoad.b + k)) ∧
    (Inv atStrip ∧ atStrip.phase = phaseStrip ∧ 1 ≤ atStrip.wlen) ∧
    (outByte { atStrip with outbuf := [(7, 0x02)] } (atStrip.wlen - 1) = outByte atStrip (atStrip.wlen - 1) ∧
      ¬1 ≤ { atStrip with wlen := 0 }.wlen) ∧
    (sboxAddr (0x000000000027#48) 7).toNat = 64 * 7 + 16 * 3 + 3 :=
  ⟨by decide, ⟨inv_atLoad, rfl⟩, by decide, ⟨inv_atStrip, rfl, by decide⟩, by decide, by decide⟩

theorem witness_StepKeepsDataInv : Inv atLoad ∧ DataInv atLoad ∧ ∃ t, step atLoad = .next t :=
  ⟨inv_atLoad, dataInv_atLoad, by rw [step_of_uop (i := .blkLoad) rfl rfl]; exact exec_next_of_index (by decide)⟩

theorem run_ready : ∃ out, run (keyOperand ready) (dataOperand ready) false false = .ok out :=
  ⟨_, by rw [run_of_workingText (by decide) (workingText_aligned (by decide) (by decide))]; rfl⟩

/-- The operands of `ready` give a result for ENC; with seven key bytes they give an error. -/
theorem witness_SequencerComputesRun : ready.busy = false ∧
    1 = (if cmdPad 0 = true ∧ cmdDir 0 = false then ready.dlen / 8 + 1 else ready.dlen / 8) ∧
    (∃ out, run (keyOperand ready) (dataOperand ready) (cmdDir 0) (cmdPad 0) = .ok out) ∧
    run (keyOperand { ready with klen := 7 }) (dataOperand { ready with klen := 7 }) (cmdDir 0) (cmdPad 0) =
      .error .invalidKeyLength :=
  ⟨by decide, by decide, run_ready, by rw [run, if_pos (by decide)]⟩

theorem witness_RunOrderOfSteps : ready.busy = false ∧
    1 = (if cmdPad 0 = true ∧ cmdDir 0 = false then ready.dlen / 8 + 1 else ready.dlen / 8) ∧
    (∃ out, run (keyOperand ready) (dataOperand ready) (cmdDir 0) (cmdPad 0) = .ok out) ∧
    (runTrace 1 (cmdPad 0 && cmdDir 0))[37]? = some phaseFinish := ⟨by decide, by decide, run_ready, by decide⟩

theorem witness_FirstErrorWins : ready.busy = false ∧ { ready with klen := 7, dlen := 9 }.klen < 8 ∧
    (8 ≤ ready.klen ∧ { ready with dlen := 9 }.dlen % 8 ≠ 0 ∧ ¬(cmdPad 3 = true ∧ cmdDir 3 = false)) := by decide

/-- `ready` with other internal registers, a longer key and another byte of IN beyond DLEN. -/
def readyOther : State := { ready with
  key := 1, c := 2, d := 3, l := 4, i := 5, wlen := 6, klen := 9
  keybuf := classicKey ++ [(8, 1)], inbuf := classicBlock ++ [(8, 7)] }

theorem witness_NoHiddenState : ready.busy = false ∧ readyOther.busy = false ∧ (8 ≤ ready.klen ↔ 8 ≤ readyOther.klen) ∧
    (∀ k, k < 8 → keyByte ready k = keyByte readyOther k) ∧ ready.dlen = readyOther.dlen ∧
    (∀ a, a < ready.dlen → inByte ready a = inByte readyOther a) := by decide

theorem witness_KeysFixedDuringBlocks :
    (5 ≤ atLoad.phase.toNat ∧ atLoad.phase.toNat ≤ 9 ∧ atLoad.busy = true ∧ atLoad.hostq.head? ≠ some .reset) ∧
    (inPhase 9).phase.toNat ≤ 9 ∧ stepped (inPhase 9) (fun t => t.phase) = some 0 := by decide

theorem witness_WritesWhileBusyIgnored : (inPhase 3).busy = true ∧
    { inPhase 3 with hostq := [.writeKlen 5] }.hostq = .writeKlen 5 :: [] := by decide

theorem witness_HostWrites : State.reset.busy = false ∧ (inPhase 1).busy = true ∧
    { State.reset with hostq := [.writeKeybuf 3 9] }.hostq = .writeKeybuf 3 9 :: [] ∧
    { inPhase 1 with hostq := [.writeIn 3 9] }.hostq = .writeIn 3 9 :: [] := by decide

theorem witness_HostReads :
    ({ finished with hostq := [.pollDone] }.hostq = .pollDone :: [] ∧ finished.done = true) ∧
    ({ finished with olen := 8 }.done = true ∧ { finished with olen := 8 }.err = 0 ∧ 7 < { finished with olen := 8 }.olen) ∧
    ¬({ finished with olen := 8 }.done = true ∧ { finished with olen := 8 }.err = 0 ∧
      8 < { finished with olen := 8 }.olen) := by decide

theorem witness_InternalsInvisible :
    (∃ t, step { finished with hostq := [.readReg .olen] } = .next t) ∧
    (∃ t, step { finished with hostq := [.readReg .olen], key := 1, phase := 6 } = .next t) ∧
    ∃ t, step { finished with hostq := [.writeDlen 3] } = .next t := ⟨⟨_, rfl⟩, ⟨_, rfl⟩, ⟨_, rfl⟩⟩

theorem witness_ResetEventEffect : { inPhase 6 with hostq := [.reset, .pollDone] }.hostq = .reset :: [.pollDone] := by
  decide

theorem witness_ResultsLast : finished.phase = phaseIdle ∧
    { finished with hostq := [.writeKlen 3] }.hostq.head? ≠ some .reset ∧
    (∀ w ∈ [0, 1, 2, 3], { finished with hostq := [.writeKlen 3] }.hostq.head? ≠ some (.writeCmd w)) ∧
    stepped { finished with hostq := [.writeKlen 3] } (fun t => t.klen) = some 3 := by decide

end Sys2Proof.Tests
end

section
/-! PROOF. One equation per kind of step, and one inversion lemma per instruction. -/

namespace Sys2Proof.Machine

/-! ### One step, by the host's oldest pending access -/

section
variable {s : State} {q : List HostAct}

theorem step_of_engineStep {i : Instr} (hq : s.hostq = .engineStep :: q) (h : decodeUop s.phase = .ok i) :
    step s = exec i { s with hostq := q } := by
  simp [step, fetch, fetchAct, fetchUop, hq, h]

/-- A poll of a run that is not done leaves the engine its turn and stays on the list (30_encoding.md R92). -/
theorem step_of_pollDone_waiting {i : Instr} (hq : s.hostq = .pollDone :: q) (hd : s.done = false)
    (h : decodeUop s.phase = .ok i) : step s = exec i s := by
  have hd' : State.done { s with hostq := q } = false := hd
  have back : { s with hostq := .pollDone :: q } = s := by rw [← hq]
  simp [step, fetch, hq, fetchAct, hd', back, fetchUop, h]

theorem step_of_pollDone_done (hq : s.hostq = .pollDone :: q) (hd : s.done = true) :
    step s = .next (readReg .status { s with hostq := q }) := by
  have hd' : State.done { s with hostq := q } = true := hd
  simp [step, fetch, fetchAct, hq, hd']

theorem step_of_writeCmd {w : BitVec 2} (hq : s.hostq = .writeCmd w :: q) :
    step s = exec (decodeCmd w) { s with hostq := q } := by
  simp [step, fetch, fetchAct, hq]

theorem step_of_writeKlen {n : Nat} (hq : s.hostq = .writeKlen n :: q) :
    step s = .next (writeKlen n { s with hostq := q }) := by
  simp [step, fetch, fetchAct, hq]

theorem step_of_writeDlen {n : Nat} (hq : s.hostq = .writeDlen n :: q) :
    step s = .next (writeDlen n { s with hostq := q }) := by
  simp [step, fetch, fetchAct, hq]

theorem step_of_writeKeybuf {a : Nat} {v : Byte} (hq : s.hostq = .writeKeybuf a v :: q) :
    step s = writeKeybuf a v { s with hostq := q } := by
  simp [step, fetch, fetchAct, hq]

theorem step_of_writeIn {a : Nat} {v : Byte} (hq : s.hostq = .writeIn a v :: q) :
    step s = writeIn a v { s with hostq := q } := by
  simp [step, fetch, fetchAct, hq]

theorem step_of_readReg {r : HostReg} (hq : s.hostq = .readReg r :: q) :
    step s = .next (readReg r { s with hostq := q }) := by
  simp [step, fetch, fetchAct, hq]

theorem step_of_readOut {a : Nat} (hq : s.hostq = .readOut a :: q) :
    step s = .next (readOut a { s with hostq := q }) := by
  simp [step, fetch, fetchAct, hq]

theorem step_of_reset (hq : s.hostq = .reset :: q) : step s = .next (resetEvent { s with hostq := q }) := by
  simp [step, fetch, fetchAct, hq]

end

/-! ### The host's writes by BUSY -/

section
variable {s : State}

theorem writeKlen_of_idle {n : Nat} (h : s.busy = false) : writeKlen n s = { s with klen := n } := by
  simp [writeKlen, h]

theorem writeKlen_of_busy {n : Nat} (h : s.busy = true) : writeKlen n s = s := by simp [writeKlen, h]

theorem writeDlen_of_idle {n : Nat} (h : s.busy = false) : writeDlen n s = { s with dlen := n } := by
  simp [writeDlen, h]

theorem writeDlen_of_busy {n : Nat} (h : s.busy = true) : writeDlen n s = s := by simp [writeDlen, h]

theorem writeKeybuf_of_idle {a : Nat} {v : Byte} (h : s.busy = false) :
    writeKeybuf a v s = .next { s with keybuf := Memory.write s.keybuf a v } := by
  simp [writeKeybuf, h]

theorem writeKeybuf_of_busy {a : Nat} {v : Byte} (h : s.busy = true) :
    writeKeybuf a v s = .refused (.bufferWriteWhileBusy .keybuf a) := by
  simp [writeKeybuf, h]

theorem writeIn_of_idle {a : Nat} {v : Byte} (h : s.busy = false) :
    writeIn a v s = .next { s with inbuf := Memory.write s.inbuf a v } := by
  simp [writeIn, h]

theorem writeIn_of_busy {a : Nat} {v : Byte} (h : s.busy = true) :
    writeIn a v s = .refused (.bufferWriteWhileBusy .inbuf a) := by
  simp [writeIn, h]

/-- A read of a written buffer: the byte written at its address, elsewhere what was there. -/
theorem Memory.read_write (m : Memory) (a b : Nat) (v : Byte) :
    Memory.read? (Memory.write m a v) b = if b = a then some v else Memory.read? m b := by
  split
  case isTrue h => subst h; exact Memory.read_write_same m b v
  case isFalse h => exact Memory.read_write_ne m v h

end

/-! ### What each instruction's next state is -/

section
variable {s t : State}

/-- A command with BUSY = 1 waits, with BUSY = 0 it starts a run (44_block_controller.md R171). -/
theorem exec_command_cases {i : Instr} {w : BitVec 2} (hi : encode i = .cmd w) (h : exec i s = .next t) :
    (s.busy = true ∧ t = s) ∨ (s.busy = false ∧ t = startRun w s) := by
  rw [exec_of_encode_cmd hi, Host.Outcome.next.injEq] at h
  subst h
  cases hb : s.busy with
  | true => exact .inl ⟨rfl, start_of_busy hb⟩
  | false => exact .inr ⟨rfl, start_of_idle hb⟩

theorem eq_of_exec_idle (h : exec .idle s = .next t) : t = s := by
  cases h; rfl

theorem exec_keychk_cases (h : exec .keychk s = .next t) :
    (s.klen < 8 ∧ t = raise .invalidKeyLength s) ∨
    (8 ≤ s.klen ∧ t = { s with key := keyWord s, phase := phaseLenchk }) := by
  simp only [exec, execKeychk, Host.Outcome.next.injEq] at h
  split at h
  case isTrue hk => exact .inl ⟨hk, h.symm⟩
  case isFalse hk => exact .inr ⟨Nat.le_of_not_lt hk, h.symm⟩

/-- LENCHK aborts exactly if the working length of the command is no multiple of 8, which it always is for ENCP
(44_block_controller.md R181). -/
theorem exec_lenchk_cases (h : exec .lenchk s = .next t) :
    (workingLength s % 8 ≠ 0 ∧ t = raise .unalignedData s) ∨
    (workingLength s % 8 = 0 ∧ t = setLengths (workingLength s) s) := by
  simp only [exec, execLenchk, Host.Outcome.next.injEq] at h
  unfold workingLength
  split at h
  case isTrue hp =>
    rw [if_pos hp]
    exact .inr ⟨by omega, h.symm⟩
  case isFalse hp =>
    rw [if_neg hp]
    split at h
    case isTrue hl => exact .inl ⟨hl, h.symm⟩
    case isFalse hl => exact .inr ⟨by omega, h.symm⟩

theorem eq_of_exec_ksPc1 (h : exec .ksPc1 s = .next t) :
    t = { s with c := (pc1Split s.key).1, d := (pc1Split s.key).2, i := 0, phase := phaseKsRound } := by
  cases h; rfl

theorem eq_of_exec_ksRound (h : exec .ksRound s = .next t) : s.i.toNat < 16 ∧ t = ksRoundStep s := by
  simp only [exec, execKsRound] at h
  split at h
  case isTrue hi => cases h; exact ⟨hi, rfl⟩
  case isFalse => cases h

theorem eq_of_exec_blkLoad (h : exec .blkLoad s = .next t) :
    t = { s with
      l := (loadedHalves (textBlock s s.b)).1, r := (loadedHalves (textBlock s s.b)).2
      i := 0, phase := phaseBlkRound } := by
  cases h; rfl

theorem eq_of_exec_blkRound (h : exec .blkRound s = .next t) : s.i.toNat < 16 ∧ t = blkRoundStep s := by
  simp only [exec, execBlkRound] at h
  split at h
  case isTrue hi => cases h; exact ⟨hi, rfl⟩
  case isFalse => cases h

theorem eq_of_exec_blkStore (h : exec .blkStore s = .next t) :
    t = { s with
      outbuf := Memory.writeBytes s.outbuf (8 * s.b) (storedBytes s)
      b := s.b + 1
      phase := if s.b + 1 = s.nblk then phaseAfterBlocks s else phaseBlkLoad } := by
  cases h; rfl

theorem exec_strip_cases (h : exec .strip s = .next t) :
    ((s.wlen = 0 ∨ padCount s = 0 ∨ s.wlen < padCount s) ∧ t = raise .padStripError s) ∨
    (¬(s.wlen = 0 ∨ padCount s = 0 ∨ s.wlen < padCount s) ∧
      t = { s with olen := s.wlen - padCount s, phase := phaseFinish }) := by
  simp only [exec, execStrip, Host.Outcome.next.injEq] at h
  split at h
  case isTrue hn => exact .inl ⟨hn, h.symm⟩
  case isFalse hn => exact .inr ⟨hn, h.symm⟩

theorem eq_of_exec_finish (h : exec .finish s = .next t) :
    t = { s with
      olen := if s.pad && s.dir then s.olen else s.wlen
      status := statusFinish s, phase := phaseIdle } := by
  cases h; rfl

end

end Sys2Proof.Machine
end

section
/-! PROOF. The statements about one step: what runs, where the machine is stuck, reset, and the host's writes. -/

namespace Sys2Proof.Machine

/-- Settles O3, by the equation of the step for each of the four ways an instruction comes to run. -/
theorem stepRunsDecodedInstruction : Obligations.StepRunsDecodedInstruction := by
  refine ⟨fun s i hq hi => step_of_uop hq hi, fun s i q hq hi => step_of_engineStep hq hi,
    fun s i q hq hd hi => step_of_pollDone_waiting hq hd hi, fun s w i q hq hi => ?_⟩
  have hi : decodeCmd w = i := Except.ok.inj hi
  rw [← hi]
  exact step_of_writeCmd hq

/-- Settles O4: such a code decodes to no micro-operation. -/
theorem undefinedPhaseIsStuck : Obligations.UndefinedPhaseIsStuck := by
  intro s hp hq
  have undefined : ∀ c : BitVec 4, 10 ≤ c.toNat → decodeUop c = .error (.undefinedPhase c) := by decide
  exact step_of_undefined hq (undefined s.phase hp)

/-- Settles O15: both round micro-operations test the index first. -/
theorem roundIndexStops : Obligations.RoundIndexStops := by
  intro s hi
  have hi : ¬ s.i.toNat < Config.nRounds := by simp only [Config.nRounds]; omega
  exact ⟨if_neg hi, if_neg hi⟩

/-- Settles O39: the reset state is a literal, and IDLE is no step. -/
theorem resetState : Obligations.ResetState :=
  ⟨rfl, by decide, by decide, by decide, rfl, fun _ => ⟨rfl, rfl, rfl⟩, step_of_uop (i := .idle) rfl (by decide)⟩

/-- Settles O51, by BUSY: the writes of a waiting engine, then the refusals of a running one. -/
theorem hostWrites : Obligations.HostWrites := by
  intro s q
  have busyOf (b : Bool) (hb : s.busy = b) : State.busy { s with hostq := q } = b := hb
  refine ⟨fun n hb hq => ?_, fun n hb hq => ?_, fun a v hb hq => ?_, fun a v hb hq => ?_, fun a v hb hq => ?_,
    fun a v hb hq => ?_⟩
  · rw [step_of_writeKlen hq, writeKlen_of_idle (busyOf _ hb)]
  · rw [step_of_writeDlen hq, writeDlen_of_idle (busyOf _ hb)]
  · rw [step_of_writeKeybuf hq, writeKeybuf_of_idle (busyOf _ hb)]
    exact ⟨_, rfl, fun b => Memory.read_write s.keybuf a b v, rfl⟩
  · rw [step_of_writeIn hq, writeIn_of_idle (busyOf _ hb)]
    exact ⟨_, rfl, fun b => Memory.read_write s.inbuf a b v, rfl⟩
  · rw [step_of_writeKeybuf hq, writeKeybuf_of_busy (busyOf _ hb)]
  · rw [step_of_writeIn hq, writeIn_of_busy (busyOf _ hb)]

end Sys2Proof.Machine
end

section
/-! PROOF. Which instruction writes what: STATUS (10_state.md R31) and the other registers and buffers (R34). -/

namespace Sys2Proof.Machine

theorem ErrorKind.code_ne_zero (e : ErrorKind) : e.code ≠ 0#3 := by cases e <;> decide

/-- Settles O19, instruction by instruction: the states that keep STATUS contradict the premise, the aborts are
`raise`. -/
theorem statusWriters : Obligations.StatusWriters := by
  intro i s t h hne
  by_cases hc : ∃ w, encode i = .cmd w
  case pos =>
    obtain ⟨w, hw⟩ := hc
    obtain ⟨-, rfl⟩ | ⟨hb, -⟩ := exec_command_cases hw h
    · exact absurd rfl hne
    · exact .inl ⟨w, hw, hb⟩
  have aborts (e : ErrorKind) : (raise e s).err ≠ 0 ∧ (raise e s).done = true ∧ (raise e s).busy = false ∧
      (raise e s).phase = 0b0000#4 ∧ (raise e s).olen = 0 :=
    ⟨by simpa using e.code_ne_zero, raise_done e s, raise_busy e s, rfl, rfl⟩
  cases i with
  | enc | dec | encp | decp => exact absurd ⟨_, rfl⟩ hc
  | keychk =>
    obtain ⟨-, rfl⟩ | ⟨-, rfl⟩ := exec_keychk_cases h
    · exact .inr (.inr ⟨.inl rfl, aborts _⟩)
    · exact absurd rfl hne
  | lenchk =>
    obtain ⟨-, rfl⟩ | ⟨-, rfl⟩ := exec_lenchk_cases h
    · exact .inr (.inr ⟨.inr (.inl rfl), aborts _⟩)
    · exact absurd rfl hne
  | strip =>
    obtain ⟨-, rfl⟩ | ⟨-, rfl⟩ := exec_strip_cases h
    · exact .inr (.inr ⟨.inr (.inr rfl), aborts _⟩)
    · exact absurd rfl hne
  | finish => exact .inr (.inl rfl)
  | idle => exact absurd (congrArg State.status (eq_of_exec_idle h)) hne
  | ksPc1 => exact absurd (congrArg State.status (eq_of_exec_ksPc1 h)) hne
  | ksRound => exact absurd (congrArg State.status (eq_of_exec_ksRound h).2) hne
  | blkLoad => exact absurd (congrArg State.status (eq_of_exec_blkLoad h)) hne
  | blkRound => exact absurd (congrArg State.status (eq_of_exec_blkRound h).2) hne
  | blkStore => exact absurd (congrArg State.status (eq_of_exec_blkStore h)) hne

/-- Settles O20: with the next state of each instruction written out, the access table is read off its fields. -/
theorem registerWriters : Obligations.RegisterWriters := by
  intro i s t h
  by_cases hc : ∃ w, encode i = .cmd w
  case pos =>
    obtain ⟨w, hw⟩ := hc
    obtain ⟨-, rfl⟩ | ⟨-, rfl⟩ := exec_command_cases hw h <;> simp [hw]
  cases i with
  | enc | dec | encp | decp => exact absurd ⟨_, rfl⟩ hc
  | keychk =>
    obtain ⟨-, rfl⟩ | ⟨-, rfl⟩ := exec_keychk_cases h
    · simp [ErrorKind.code_ne_zero]
    · simp
  | lenchk =>
    obtain ⟨-, rfl⟩ | ⟨-, rfl⟩ := exec_lenchk_cases h
    · simp [ErrorKind.code_ne_zero]
    · simp
  | strip => obtain ⟨-, rfl⟩ | ⟨-, rfl⟩ := exec_strip_cases h <;> simp
  | finish => obtain rfl := eq_of_exec_finish h; simp
  | idle => obtain rfl := eq_of_exec_idle h; simp
  | ksPc1 => obtain rfl := eq_of_exec_ksPc1 h; simp
  | ksRound => obtain ⟨-, rfl⟩ := eq_of_exec_ksRound h; simp
  | blkLoad => obtain rfl := eq_of_exec_blkLoad h; simp
  | blkRound => obtain ⟨-, rfl⟩ := eq_of_exec_blkRound h; simp
  | blkStore => obtain rfl := eq_of_exec_blkStore h; simp

end Sys2Proof.Machine
end

section
/-! PROOF. The control invariant, phase by phase: `ControlPoint` lists for each phase what `Inv` says there, `inv_iff`
ties the two, and a step leads from one control point to another. The canonical form of the buffers is kept apart, as it
holds of the bytes alone. -/

namespace Sys2Proof.Machine

/-! ### The canonical form of the buffers -/

/-- The three buffers are canonical. -/
structure BuffersWf (s : State) : Prop where
  keybuf : Memory.wf s.keybuf = true
  inbuf : Memory.wf s.inbuf = true
  outbuf : Memory.wf s.outbuf = true

/-- No instruction but BLK_STORE writes a buffer, and its write keeps the canonical form. -/
theorem BuffersWf.exec {i : Instr} {s t : State} (h : BuffersWf s) (he : exec i s = .next t) : BuffersWf t := by
  obtain ⟨-, -, -, -, -, -, -, hout, -, -, -, -, hkey, hin, -⟩ := registerWriters i s t he
  refine ⟨hkey ▸ h.keybuf, hin ▸ h.inbuf, ?_⟩
  by_cases ho : t.outbuf = s.outbuf
  · exact ho ▸ h.outbuf
  · obtain rfl := hout ho
    obtain rfl := eq_of_exec_blkStore he
    exact Memory.writeBytes_wf _ _ _ h.outbuf

theorem BuffersWf.start {s : State} (h : BuffersWf s) (w : BitVec 2) : BuffersWf (start w s) := by
  unfold Machine.start
  split
  · exact h
  · exact ⟨h.keybuf, h.inbuf, h.outbuf⟩

/-- Every step keeps the buffers canonical. -/
theorem BuffersWf.step {s t : State} (h : BuffersWf s) (hs : step s = .next t) : BuffersWf t := by
  have atq (q : List HostAct) : BuffersWf { s with hostq := q } := ⟨h.keybuf, h.inbuf, h.outbuf⟩
  obtain ⟨q, i, -, -, he⟩ | ⟨q, w, -, rfl⟩ | ⟨q, r, -, rfl⟩ | ⟨q, a, -, rfl⟩ | ⟨q, n, -, rfl⟩ | ⟨q, n, -, rfl⟩ |
    ⟨q, a, v, -, -, rfl⟩ | ⟨q, a, v, -, -, rfl⟩ | ⟨q, -, rfl⟩ := step_cases hs
  · exact (atq q).exec he
  · exact (atq q).start w
  · exact ⟨by simpa using h.keybuf, by simpa using h.inbuf, by simpa using h.outbuf⟩
  · exact ⟨by simpa using h.keybuf, by simpa using h.inbuf, by simpa using h.outbuf⟩
  · exact ⟨by simpa using h.keybuf, by simpa using h.inbuf, by simpa using h.outbuf⟩
  · exact ⟨by simpa using h.keybuf, by simpa using h.inbuf, by simpa using h.outbuf⟩
  · exact ⟨Memory.write_wf _ _ _ h.keybuf, h.inbuf, h.outbuf⟩
  · exact ⟨h.keybuf, Memory.write_wf _ _ _ h.inbuf, h.outbuf⟩
  · exact ⟨reset_buffers_wf.1, reset_buffers_wf.2.1, reset_buffers_wf.2.2⟩

/-! ### The control points -/

/-- The engine is in phase `p` of a run: STATUS is what START wrote (10_state.md R31). -/
structure InRun (p : BitVec 4) (s : State) : Prop where
  phase : s.phase = p
  status : s.status = statusStart

/-- What the two checks of a run leave (44_block_controller.md R180, R181). -/
structure Checked (s : State) : Prop where
  keyLong : 8 ≤ s.klen
  workLen : s.wlen = workingLength s
  wholeBlocks : s.wlen = 8 * s.nblk

/-- A block is in work and the ones before it are in OUT. -/
structure BlockInWork (s : State) : Prop where
  index : s.b < s.nblk
  stored : WrittenBelow s.outbuf (8 * s.b)

/-- What the control invariant says in each phase. -/
inductive ControlPoint (s : State) : Prop where
  | idle (phase : s.phase = phaseIdle) (busy : s.busy = false) (errDone : s.err ≠ 0 → s.done = true)
      (errCode : s.err = 0 ∨ s.err = 1 ∨ s.err = 2 ∨ s.err = 5) (errOlen : s.err ≠ 0 → s.olen = 0)
      (result : s.done = true → s.err = 0 → WrittenBelow s.outbuf s.olen)
  | keychk (run : InRun phaseKeychk s) (olen : s.olen = 0)
  | lenchk (run : InRun phaseLenchk s) (olen : s.olen = 0) (keyLong : 8 ≤ s.klen)
  | ksPc1 (run : InRun phaseKsPc1 s) (olen : s.olen = 0) (checked : Checked s)
  | ksRound (run : InRun phaseKsRound s) (olen : s.olen = 0) (checked : Checked s) (index : s.i.toNat < 16)
  | blkLoad (run : InRun phaseBlkLoad s) (olen : s.olen = 0) (checked : Checked s) (block : BlockInWork s)
  | blkRound (run : InRun phaseBlkRound s) (olen : s.olen = 0) (checked : Checked s) (block : BlockInWork s)
      (index : s.i.toNat < 16)
  | blkStore (run : InRun phaseBlkStore s) (olen : s.olen = 0) (checked : Checked s) (block : BlockInWork s)
      (index : s.i.toNat = 16)
  | strip (run : InRun phaseStrip s) (olen : s.olen = 0) (checked : Checked s)
      (decp : s.pad = true ∧ s.dir = true) (stored : WrittenBelow s.outbuf s.wlen)
  | finish (run : InRun phaseFinish s) (checked : Checked s)
      (olen : if s.pad && s.dir then s.olen ≤ s.wlen else s.olen = 0) (stored : WrittenBelow s.outbuf s.wlen)

section
variable {s t : State} {p : BitVec 4}

theorem InRun.busy (h : InRun p s) : s.busy = true := busy_of_status h.status

theorem InRun.done (h : InRun p s) : s.done = false := done_of_status h.status

theorem InRun.err (h : InRun p s) : s.err = 0 := err_of_status h.status

/-- While BUSY = 1 the control invariant leaves STATUS no other value than START's. -/
theorem Inv.status_of_busy (h : Inv s) (hb : s.busy = true) : s.status = statusStart := by
  have hd : s.done = false := by simpa [hb] using h.notBusyDone
  have he : s.err = 0 := by
    by_contra he
    simp [h.errDone he] at hd
  rw [status_eq_mkStatus s, hb, hd, he]
  rfl

theorem phase_cases {c : BitVec 4} (h : c.toNat ≤ 9) :
    c = phaseIdle ∨ c = phaseKeychk ∨ c = phaseLenchk ∨ c = phaseKsPc1 ∨ c = phaseKsRound ∨ c = phaseBlkLoad ∨
      c = phaseBlkRound ∨ c = phaseBlkStore ∨ c = phaseStrip ∨ c = phaseFinish := by
  revert c; decide

theorem Inv.inRun (h : Inv s) (hp : s.phase = p) (hi : p ≠ phaseIdle) : InRun p s :=
  ⟨hp, h.status_of_busy (h.busyIff.2 (hp ▸ hi))⟩

theorem Inv.olen_zero (h : Inv s) (hp : s.phase = p) (hi : p ≠ phaseIdle) (hf : p ≠ phaseFinish) : s.olen = 0 :=
  h.busyOlen (h.busyIff.2 (hp ▸ hi)) (hp ▸ hf)

theorem Inv.checked (h : Inv s) (hp : s.phase = p) (h3 : 3 ≤ p.toNat) : Checked s := by
  subst hp
  obtain ⟨hw, hn⟩ := h.lengths h3
  exact ⟨h.keyLong (by omega), hw, hn⟩

theorem Inv.blockInWork (h : Inv s) (hp : s.phase = p) (h5 : 5 ≤ p.toNat) (h7 : p.toNat ≤ 7) : BlockInWork s := by
  subst hp
  obtain ⟨hb, ho⟩ := h.blockIndex h5 h7
  exact ⟨hb, ho⟩

theorem Inv.buffersWf (h : Inv s) : BuffersWf s := ⟨h.keybufWf, h.inbufWf, h.outbufWf⟩

theorem Inv.controlPoint (h : Inv s) : ControlPoint s := by
  rcases phase_cases h.phaseDefined with hp | hp | hp | hp | hp | hp | hp | hp | hp | hp
  · have hb : s.busy = false := by simpa [hp] using h.busyIff
    exact .idle hp hb h.errDone h.errCode h.errOlen h.resultWritten
  · exact .keychk (h.inRun hp (by decide)) (h.olen_zero hp (by decide) (by decide))
  · exact .lenchk (h.inRun hp (by decide)) (h.olen_zero hp (by decide) (by decide)) (h.keyLong (by rw [hp]; decide))
  · exact .ksPc1 (h.inRun hp (by decide)) (h.olen_zero hp (by decide) (by decide)) (h.checked hp (by decide))
  · exact .ksRound (h.inRun hp (by decide)) (h.olen_zero hp (by decide) (by decide)) (h.checked hp (by decide))
      (h.roundIndex (.inl hp))
  · exact .blkLoad (h.inRun hp (by decide)) (h.olen_zero hp (by decide) (by decide)) (h.checked hp (by decide))
      (h.blockInWork hp (by decide) (by decide))
  · exact .blkRound (h.inRun hp (by decide)) (h.olen_zero hp (by decide) (by decide)) (h.checked hp (by decide))
      (h.blockInWork hp (by decide) (by decide)) (h.roundIndex (.inr hp))
  · exact .blkStore (h.inRun hp (by decide)) (h.olen_zero hp (by decide) (by decide)) (h.checked hp (by decide))
      (h.blockInWork hp (by decide) (by decide)) (h.storeIndex hp)
  · exact .strip (h.inRun hp (by decide)) (h.olen_zero hp (by decide) (by decide)) (h.checked hp (by decide))
      (h.stripOnly hp) (h.allStored (by rw [hp]; decide))
  · exact .finish (h.inRun hp (by decide)) (h.checked hp (by decide)) (h.finishOlen hp)
      (h.allStored (by rw [hp]; decide))

/-- The control invariant of a state in phase `p` of a run, from what `Inv` says of that phase; what it says of other
phases is vacuous. -/
theorem InRun.inv (run : InRun p s) (wf : BuffersWf s)
    (inRange : p ≠ phaseIdle ∧ p.toNat ≤ 9 := by decide)
    (olen : p ≠ phaseFinish → s.olen = 0 := by exact absurd rfl)
    (finishOlen : p = phaseFinish → if s.pad && s.dir then s.olen ≤ s.wlen else s.olen = 0 := by
      exact (absurd · (by decide)))
    (keyLong : 2 ≤ p.toNat → 8 ≤ s.klen := by exact (absurd · (by decide)))
    (lengths : 3 ≤ p.toNat → s.wlen = workingLength s ∧ s.wlen = 8 * s.nblk := by exact (absurd · (by decide)))
    (roundIndex : p = phaseKsRound ∨ p = phaseBlkRound → s.i.toNat < 16 := by exact (absurd · (by decide)))
    (storeIndex : p = phaseBlkStore → s.i.toNat = 16 := by exact (absurd · (by decide)))
    (block : 5 ≤ p.toNat ∧ p.toNat ≤ 7 → BlockInWork s := by exact (absurd · (by decide)))
    (stripOnly : p = phaseStrip → s.pad = true ∧ s.dir = true := by exact (absurd · (by decide)))
    (stored : 8 ≤ p.toNat → WrittenBelow s.outbuf s.wlen := by exact (absurd · (by decide))) : Inv s where
  keybufWf := wf.keybuf
  inbufWf := wf.inbuf
  outbufWf := wf.outbuf
  phaseDefined := run.phase ▸ inRange.2
  busyIff := ⟨fun _ => run.phase ▸ inRange.1, fun _ => run.busy⟩
  notBusyDone := by simp [run.done]
  errDone := fun h => absurd run.err h
  errCode := .inl run.err
  errOlen := fun h => absurd run.err h
  busyOlen := fun _ h => olen (run.phase ▸ h)
  finishOlen := fun h => finishOlen (run.phase ▸ h)
  keyLong := fun h => keyLong (run.phase ▸ h)
  lengths := fun h => lengths (run.phase ▸ h)
  roundIndex := fun h => roundIndex (run.phase ▸ h)
  storeIndex := fun h => storeIndex (run.phase ▸ h)
  blockIndex := fun h h' =>
    have b := block ⟨run.phase ▸ h, run.phase ▸ h'⟩
    ⟨b.index, b.stored⟩
  stripOnly := fun h => stripOnly (run.phase ▸ h)
  allStored := fun h => stored (run.phase ▸ h)
  resultWritten := fun h => absurd h (by simp [run.done])

theorem ControlPoint.inv (h : ControlPoint s) (wf : BuffersWf s) : Inv s := by
  cases h with
  | idle hp hb herrDone herrCode herrOlen hres =>
    have vacuous {n : Nat} {P : Prop} (hn : 0 < n) (h : n ≤ s.phase.toNat) : P := by
      rw [hp] at h
      exact absurd h (by simpa [phaseIdle] using hn.ne')
    have other {c : BitVec 4} {P : Prop} (hc : phaseIdle ≠ c) (h : s.phase = c) : P := absurd (hp.symm.trans h) hc
    exact {
      keybufWf := wf.keybuf, inbufWf := wf.inbuf, outbufWf := wf.outbuf
      phaseDefined := by rw [hp]; decide
      busyIff := by simp [hb, hp]
      notBusyDone := by simp [hb]
      errDone := herrDone, errCode := herrCode, errOlen := herrOlen
      busyOlen := by simp [hb]
      finishOlen := other (by decide)
      keyLong := vacuous (by decide)
      lengths := vacuous (by decide)
      roundIndex := fun h => h.elim (other (by decide)) (other (by decide))
      storeIndex := other (by decide)
      blockIndex := fun h => vacuous (by decide) h
      stripOnly := other (by decide)
      allStored := vacuous (by decide)
      resultWritten := hres }
  | keychk run ho => exact run.inv wf (olen := fun _ => ho)
  | lenchk run ho hk => exact run.inv wf (olen := fun _ => ho) (keyLong := fun _ => hk)
  | ksPc1 run ho hc =>
    exact run.inv wf (olen := fun _ => ho) (keyLong := fun _ => hc.keyLong)
      (lengths := fun _ => ⟨hc.workLen, hc.wholeBlocks⟩)
  | ksRound run ho hc hi =>
    exact run.inv wf (olen := fun _ => ho) (keyLong := fun _ => hc.keyLong)
      (lengths := fun _ => ⟨hc.workLen, hc.wholeBlocks⟩) (roundIndex := fun _ => hi)
  | blkLoad run ho hc hb =>
    exact run.inv wf (olen := fun _ => ho) (keyLong := fun _ => hc.keyLong)
      (lengths := fun _ => ⟨hc.workLen, hc.wholeBlocks⟩) (block := fun _ => hb)
  | blkRound run ho hc hb hi =>
    exact run.inv wf (olen := fun _ => ho) (keyLong := fun _ => hc.keyLong)
      (lengths := fun _ => ⟨hc.workLen, hc.wholeBlocks⟩) (block := fun _ => hb) (roundIndex := fun _ => hi)
  | blkStore run ho hc hb hi =>
    exact run.inv wf (olen := fun _ => ho) (keyLong := fun _ => hc.keyLong)
      (lengths := fun _ => ⟨hc.workLen, hc.wholeBlocks⟩) (block := fun _ => hb) (storeIndex := fun _ => hi)
  | strip run ho hc hd hs =>
    exact run.inv wf (olen := fun _ => ho) (keyLong := fun _ => hc.keyLong)
      (lengths := fun _ => ⟨hc.workLen, hc.wholeBlocks⟩) (stripOnly := fun _ => hd) (stored := fun _ => hs)
  | finish run hc ho hs =>
    exact run.inv wf (finishOlen := fun _ => ho) (keyLong := fun _ => hc.keyLong)
      (lengths := fun _ => ⟨hc.workLen, hc.wholeBlocks⟩) (stored := fun _ => hs)

/-- The control invariant is the canonical form of the buffers and the facts of the phase. -/
theorem inv_iff : Inv s ↔ BuffersWf s ∧ ControlPoint s :=
  ⟨fun h => ⟨h.buffersWf, h.controlPoint⟩, fun ⟨wf, h⟩ => h.inv wf⟩

end

/-! ### A step leads from one control point to another -/

section
variable {s t : State}

theorem writtenBelow_zero (m : Memory) : WrittenBelow m 0 := fun a h => absurd h (Nat.not_lt_zero a)

/-- Eight bytes written at `8 * b` on top of the blocks below `b`. -/
theorem WrittenBelow.writeBytes_block {m : Memory} {b : Nat} {vs : List Byte} (h : WrittenBelow m (8 * b))
    (hl : vs.length = 8) : WrittenBelow (Memory.writeBytes m (8 * b) vs) (8 * (b + 1)) := by
  intro a ha
  by_cases hlow : a < 8 * b
  · rw [Memory.read_writeBytes_out _ _ _ _ (.inl hlow)]
    exact h a hlow
  · obtain ⟨j, rfl⟩ := Nat.exists_eq_add_of_le (Nat.le_of_not_lt hlow)
    rw [Memory.read_writeBytes_mem _ _ _ _ (by omega)]
    rfl

@[simp] theorem length_storedBytes (s : State) : (storedBytes s).length = 8 := length_bytesOfWord _

theorem controlPoint_raise {e : ErrorKind} (h : e.code = 1 ∨ e.code = 2 ∨ e.code = 5) (s : State) :
    ControlPoint (raise e s) :=
  .idle rfl (raise_busy e s) (fun _ => raise_done e s) (.inr ((raise_err e s).symm ▸ h)) (fun _ => rfl)
    (fun _ _ => writtenBelow_zero _)

/-- After the last block a run is at STRIP or at FINISH (44_block_controller.md R183, R186). -/
theorem controlPoint_afterBlocks (phase : t.phase = phaseAfterBlocks t) (status : t.status = statusStart)
    (olen : t.olen = 0) (checked : Checked t) (stored : WrittenBelow t.outbuf t.wlen) : ControlPoint t := by
  unfold phaseAfterBlocks at phase
  by_cases hd : (t.pad && t.dir) = true
  · rw [if_pos hd] at phase
    exact .strip ⟨phase, status⟩ olen checked (by simpa using hd) stored
  · rw [if_neg hd] at phase
    exact .finish ⟨phase, status⟩ checked (by rw [if_neg hd]; exact olen) stored

theorem controlPoint_after_keychk (run : InRun phaseKeychk s) (olen : s.olen = 0) (he : exec .keychk s = .next t) :
    ControlPoint t := by
  obtain ⟨-, rfl⟩ | ⟨hk, rfl⟩ := exec_keychk_cases he
  · exact controlPoint_raise (.inl rfl) s
  · exact .lenchk ⟨rfl, run.status⟩ olen hk

theorem controlPoint_after_lenchk (run : InRun phaseLenchk s) (olen : s.olen = 0) (keyLong : 8 ≤ s.klen)
    (he : exec .lenchk s = .next t) : ControlPoint t := by
  obtain ⟨-, rfl⟩ | ⟨hw, rfl⟩ := exec_lenchk_cases he
  · exact controlPoint_raise (.inr (.inl rfl)) s
  · have blocks : workingLength s = 8 * (workingLength s / 8) := by omega
    exact .ksPc1 ⟨rfl, run.status⟩ olen ⟨keyLong, rfl, blocks⟩

theorem controlPoint_after_ksPc1 (run : InRun phaseKsPc1 s) (olen : s.olen = 0) (checked : Checked s)
    (he : exec .ksPc1 s = .next t) : ControlPoint t := by
  obtain rfl := eq_of_exec_ksPc1 he
  exact .ksRound ⟨rfl, run.status⟩ olen { checked with } (show (0 : BitVec 5).toNat < 16 by decide)

theorem controlPoint_after_ksRound (run : InRun phaseKsRound s) (olen : s.olen = 0) (checked : Checked s)
    (he : exec .ksRound s = .next t) : ControlPoint t := by
  obtain ⟨hi, rfl⟩ := eq_of_exec_ksRound he
  have checked' : Checked (ksRoundStep s) := { checked with }
  by_cases last : s.i.toNat + 1 = Config.nRounds
  · have hphase : (ksRoundStep s).phase = phaseAfterKeys s := by simp [last]
    by_cases hn : 0 < s.nblk
    · rw [phaseAfterKeys, if_pos hn] at hphase
      have hb : (ksRoundStep s).b = 0 := by simp [last]
      exact .blkLoad ⟨hphase, run.status⟩ olen checked'
        ⟨by rw [hb]; exact hn, by rw [hb]; exact writtenBelow_zero _⟩
    · rw [phaseAfterKeys, if_neg hn] at hphase
      have hw : (ksRoundStep s).wlen = 0 := checked.wholeBlocks.trans (by omega)
      exact controlPoint_afterBlocks hphase run.status olen checked' (by rw [hw]; exact writtenBelow_zero _)
  · have hphase : (ksRoundStep s).phase = phaseKsRound := by simpa [last] using run.phase
    have hi' : (ksRoundStep s).i.toNat = s.i.toNat + 1 := toNat_index_succ s.i hi
    have : s.i.toNat + 1 ≠ 16 := last
    exact .ksRound ⟨hphase, run.status⟩ olen checked' (by omega)

theorem controlPoint_after_blkLoad (run : InRun phaseBlkLoad s) (olen : s.olen = 0) (checked : Checked s)
    (block : BlockInWork s) (he : exec .blkLoad s = .next t) : ControlPoint t := by
  obtain rfl := eq_of_exec_blkLoad he
  exact .blkRound ⟨rfl, run.status⟩ olen { checked with } { block with }
    (show (0 : BitVec 5).toNat < 16 by decide)

theorem controlPoint_after_blkRound (run : InRun phaseBlkRound s) (olen : s.olen = 0) (checked : Checked s)
    (block : BlockInWork s) (he : exec .blkRound s = .next t) : ControlPoint t := by
  obtain ⟨hi, rfl⟩ := eq_of_exec_blkRound he
  have checked' : Checked (blkRoundStep s) := { checked with }
  have block' : BlockInWork (blkRoundStep s) := { block with }
  have hi' : (blkRoundStep s).i.toNat = s.i.toNat + 1 := toNat_index_succ s.i hi
  by_cases last : s.i.toNat + 1 = Config.nRounds
  · have hphase : (blkRoundStep s).phase = phaseBlkStore := by simp [last]
    exact .blkStore ⟨hphase, run.status⟩ olen checked' block' (hi'.trans last)
  · have hphase : (blkRoundStep s).phase = phaseBlkRound := by simpa [last] using run.phase
    have : s.i.toNat + 1 ≠ 16 := last
    exact .blkRound ⟨hphase, run.status⟩ olen checked' block' (by omega)

theorem controlPoint_after_blkStore (run : InRun phaseBlkStore s) (olen : s.olen = 0) (checked : Checked s)
    (block : BlockInWork s) (he : exec .blkStore s = .next t) : ControlPoint t := by
  obtain rfl := eq_of_exec_blkStore he
  have stored := block.stored.writeBytes_block (length_storedBytes s)
  by_cases last : s.b + 1 = s.nblk
  · have hw : s.wlen = 8 * (s.b + 1) := checked.wholeBlocks.trans (by rw [last])
    exact controlPoint_afterBlocks (if_pos last) run.status olen { checked with } (by rw [hw]; exact stored)
  · have hb := block.index
    exact .blkLoad ⟨if_neg last, run.status⟩ olen { checked with } ⟨by show s.b + 1 < s.nblk; omega, stored⟩

theorem controlPoint_after_strip (run : InRun phaseStrip s) (checked : Checked s) (decp : s.pad = true ∧ s.dir = true)
    (stored : WrittenBelow s.outbuf s.wlen) (he : exec .strip s = .next t) : ControlPoint t := by
  obtain ⟨-, rfl⟩ | ⟨-, rfl⟩ := exec_strip_cases he
  · exact controlPoint_raise (.inr (.inr rfl)) s
  · exact .finish ⟨rfl, run.status⟩ { checked with } (by simp [decp]) stored

theorem controlPoint_after_finish (run : InRun phaseFinish s)
    (olen : if s.pad && s.dir then s.olen ≤ s.wlen else s.olen = 0) (stored : WrittenBelow s.outbuf s.wlen)
    (he : exec .finish s = .next t) : ControlPoint t := by
  obtain rfl := eq_of_exec_finish he
  have herr : statusFinish s = mkStatus false true 0 := by rw [statusFinish, run.err]
  refine .idle rfl (busy_of_status rfl) (fun _ => done_of_status rfl) (.inl (err_of_status herr))
    (fun h => absurd (err_of_status herr) h) (fun _ _ a ha => stored a (lt_of_lt_of_le ha ?_))
  dsimp only
  split
  case isTrue hd => rwa [if_pos hd] at olen
  case isFalse => exact le_rfl

/-- The engine performs the micro-operation its phase names. -/
theorem instr_of_phase {i j : Instr} {p : BitVec 4} (hd : decodeUop s.phase = .ok i) (hp : s.phase = p)
    (hj : decodeUop p = .ok j) : i = j :=
  Except.ok.inj (hd.symm.trans (hp ▸ hj))

/-- The micro-operation of the phase leads from its control point to another. -/
theorem ControlPoint.exec {i : Instr} (h : ControlPoint s) (hd : decodeUop s.phase = .ok i)
    (he : exec i s = .next t) : ControlPoint t := by
  cases h with
  | idle hp hb h1 h2 h3 h4 =>
    obtain rfl := instr_of_phase hd hp rfl
    obtain rfl := eq_of_exec_idle he
    exact .idle hp hb h1 h2 h3 h4
  | keychk run ho =>
    obtain rfl := instr_of_phase hd run.phase rfl
    exact controlPoint_after_keychk run ho he
  | lenchk run ho hk =>
    obtain rfl := instr_of_phase hd run.phase rfl
    exact controlPoint_after_lenchk run ho hk he
  | ksPc1 run ho hc =>
    obtain rfl := instr_of_phase hd run.phase rfl
    exact controlPoint_after_ksPc1 run ho hc he
  | ksRound run ho hc hi =>
    obtain rfl := instr_of_phase hd run.phase rfl
    exact controlPoint_after_ksRound run ho hc he
  | blkLoad run ho hc hb =>
    obtain rfl := instr_of_phase hd run.phase rfl
    exact controlPoint_after_blkLoad run ho hc hb he
  | blkRound run ho hc hb hi =>
    obtain rfl := instr_of_phase hd run.phase rfl
    exact controlPoint_after_blkRound run ho hc hb he
  | blkStore run ho hc hb hi =>
    obtain rfl := instr_of_phase hd run.phase rfl
    exact controlPoint_after_blkStore run ho hc hb he
  | strip run ho hc hp hs =>
    obtain rfl := instr_of_phase hd run.phase rfl
    exact controlPoint_after_strip run hc hp hs he
  | finish run hc ho hs =>
    obtain rfl := instr_of_phase hd run.phase rfl
    exact controlPoint_after_finish run ho hs he

theorem controlPoint_startRun (w : BitVec 2) (s : State) : ControlPoint (startRun w s) := .keychk ⟨rfl, rfl⟩ rfl

theorem controlPoint_of_reset (h : t.phase = phaseIdle) (hst : t.status = 0) (ho : t.olen = 0) : ControlPoint t := by
  have hst : t.status = mkStatus false false 0 := hst
  have herr : t.err = 0 := err_of_status hst
  exact .idle h (busy_of_status hst) (absurd herr) (.inl herr) (absurd herr) (fun _ _ => ho ▸ writtenBelow_zero _)

/-! ### The whole invariant -/

/-- The control invariant does not depend on the host's own fields. -/
theorem Inv.congr_host (h : Inv s) (q : List HostAct) (rd : Option Nat) (n : Nat) :
    Inv { s with hostq := q, rdata := rd, draws := n } := { h with }

theorem Inv.exec {i : Instr} (h : Inv s) (hd : decodeUop s.phase = .ok i) (he : exec i s = .next t) : Inv t :=
  (h.controlPoint.exec hd he).inv (h.buffersWf.exec he)

theorem Inv.start (h : Inv s) (w : BitVec 2) : Inv (start w s) := by
  cases hb : s.busy with
  | true => rwa [start_of_busy hb]
  | false =>
    rw [start_of_idle hb]
    exact (controlPoint_startRun w s).inv ⟨h.keybufWf, h.inbufWf, h.outbufWf⟩

/-- With BUSY = 0 the invariant says nothing of KLEN, DLEN, KEYBUF and IN but that the buffers are canonical. -/
theorem Inv.congr_operands (h : Inv s) (hb : s.busy = false) (kl dl : Nat) {kb ib : Memory}
    (hkb : Memory.wf kb = true) (hib : Memory.wf ib = true) :
    Inv { s with klen := kl, dlen := dl, keybuf := kb, inbuf := ib } := by
  have hp : s.phase = phaseIdle := by simpa [hb] using h.busyIff
  exact ControlPoint.inv (.idle hp hb h.errDone h.errCode h.errOlen h.resultWritten) ⟨hkb, hib, h.outbufWf⟩

theorem Inv.writeKlen (h : Inv s) (n : Nat) : Inv (writeKlen n s) := by
  cases hb : s.busy with
  | true => rwa [writeKlen_of_busy hb]
  | false => rw [writeKlen_of_idle hb]; exact h.congr_operands hb n s.dlen h.keybufWf h.inbufWf

theorem Inv.writeDlen (h : Inv s) (n : Nat) : Inv (writeDlen n s) := by
  cases hb : s.busy with
  | true => rwa [writeDlen_of_busy hb]
  | false => rw [writeDlen_of_idle hb]; exact h.congr_operands hb s.klen n h.keybufWf h.inbufWf

theorem Inv.readReg (h : Inv s) (r : HostReg) : Inv (readReg r s) := by
  cases r <;> exact h.congr_host _ _ _

theorem Inv.readOut (h : Inv s) (a : Nat) : Inv (readOut a s) := by
  unfold Machine.readOut
  split <;> exact h.congr_host _ _ _

theorem inv_resetEvent (s : State) : Inv (resetEvent s) := by
  obtain ⟨hk, hi, ho⟩ := reset_buffers_wf
  exact (controlPoint_of_reset rfl rfl rfl).inv ⟨hk, hi, ho⟩

/-- Under the control invariant the micro-operation PHASE names has the round index it needs. -/
theorem Inv.exec_completes {i : Instr} (h : Inv s) (hd : decodeUop s.phase = .ok i) :
    ∃ t, Machine.exec i s = .next t := by
  obtain ⟨j, hj, hp⟩ := decodeUop_eq s.phase h.phaseDefined
  obtain rfl := Except.ok.inj (hd.symm.trans hj)
  refine exec_next_of_index fun hi => h.roundIndex ?_
  obtain rfl | rfl := hi
  · exact .inl (Code.uop.inj hp).symm
  · exact .inr (Code.uop.inj hp).symm

end

/-! ### The statements -/

/-- Settles O40: the reset state is in IDLE with nothing written. -/
theorem invAtReset : Obligations.InvAtReset := by
  obtain ⟨hk, hi, ho⟩ := reset_buffers_wf
  exact (controlPoint_of_reset rfl rfl rfl).inv ⟨hk, hi, ho⟩

/-- Settles O41, by what a step can do: the engine's turn goes from control point to control point, START and reset make
one, reads touch nothing the invariant speaks of, and lengths and buffers are written in IDLE only. -/
theorem stepKeepsInv : Obligations.StepKeepsInv := by
  intro s t h hs
  have atq (q : List HostAct) : Inv { s with hostq := q } := h.congr_host q s.rdata s.draws
  obtain ⟨q, i, -, hd, he⟩ | ⟨q, w, -, rfl⟩ | ⟨q, r, -, rfl⟩ | ⟨q, a, -, rfl⟩ | ⟨q, n, -, rfl⟩ | ⟨q, n, -, rfl⟩ |
    ⟨q, a, v, -, hb, rfl⟩ | ⟨q, a, v, -, hb, rfl⟩ | ⟨q, -, rfl⟩ := step_cases hs
  · exact (atq q).exec hd he
  · exact (atq q).start w
  · exact (atq q).readReg r
  · exact (atq q).readOut a
  · exact (atq q).writeKlen n
  · exact (atq q).writeDlen n
  · exact (atq q).congr_operands hb s.klen s.dlen (Memory.write_wf _ _ _ h.keybufWf) h.inbufWf
  · exact (atq q).congr_operands hb s.klen s.dlen h.keybufWf (Memory.write_wf _ _ _ h.inbufWf)
  · exact inv_resetEvent _

/-- Settles O42, by the host's oldest pending access: only a buffer write has an outcome other than a next state. -/
theorem stepCompletesUnderInv : Obligations.StepCompletesUnderInv := by
  intro s h
  obtain ⟨i, hd, -⟩ := decodeUop_eq s.phase h.phaseDefined
  have engine (q : List HostAct) : ∃ t, exec i { s with hostq := q } = .next t :=
    (h.congr_host q s.rdata s.draws).exec_completes hd
  rcases hq : s.hostq with _ | ⟨a, q⟩
  · rw [step_of_uop hq hd]
    exact .inl (h.exec_completes hd)
  cases a with
  | writeCmd w => exact .inl ⟨_, (step_of_writeCmd hq).trans (exec_decodeCmd w _)⟩
  | writeKlen n => exact .inl ⟨_, step_of_writeKlen hq⟩
  | writeDlen n => exact .inl ⟨_, step_of_writeDlen hq⟩
  | writeKeybuf a v =>
    cases hb : s.busy with
    | true => exact .inr ⟨rfl, a, v, q, .inl ⟨rfl, (step_of_writeKeybuf hq).trans (writeKeybuf_of_busy hb)⟩⟩
    | false => exact .inl ⟨_, (step_of_writeKeybuf hq).trans (writeKeybuf_of_idle hb)⟩
  | writeIn a v =>
    cases hb : s.busy with
    | true => exact .inr ⟨rfl, a, v, q, .inr ⟨rfl, (step_of_writeIn hq).trans (writeIn_of_busy hb)⟩⟩
    | false => exact .inl ⟨_, (step_of_writeIn hq).trans (writeIn_of_idle hb)⟩
  | readReg r => exact .inl ⟨_, step_of_readReg hq⟩
  | readOut a => exact .inl ⟨_, step_of_readOut hq⟩
  | pollDone =>
    cases hdone : s.done with
    | true => exact .inl ⟨_, step_of_pollDone_done hq hdone⟩
    | false =>
      rw [step_of_pollDone_waiting hq hdone hd]
      exact .inl (h.exec_completes hd)
  | engineStep =>
    rw [step_of_engineStep hq hd]
    exact .inl (engine q)
  | reset => exact .inl ⟨_, step_of_reset hq⟩

end Sys2Proof.Machine
end

section
/-! PROOF. No hidden state (10_state.md R33, R35): two runs from the same operands, side by side. `SameRun` lists for each
phase what the two machines agree on; a step of both keeps it and brings the end nearer. -/

namespace Sys2Proof.Machine

/-! ### What two runs share -/

/-- The operands of a run (30_encoding.md R83) and the latched command, equal in two machines whose hosts are quiet. -/
structure SameOperands (s s' : State) : Prop where
  quiet : s.hostq = []
  quiet' : s'.hostq = []
  dir : s.dir = s'.dir
  pad : s.pad = s'.pad
  keyLong : 8 ≤ s.klen ↔ 8 ≤ s'.klen
  keyBytes : 8 ≤ s.klen → ∀ k, k < 8 → keyByte s k = keyByte s' k
  dlen : s.dlen = s'.dlen
  data : ∀ a, a < s.dlen → inByte s a = inByte s' a

/-- Two machines in phase `p` of a run with the same operands. -/
structure BothAt (p : BitVec 4) (s s' : State) : Prop where
  run : InRun p s
  run' : InRun p s'
  olen : s.olen = s'.olen
  operands : SameOperands s s'

/-- The lengths LENCHK sets, whole blocks, equal in both. -/
structure SameLengths (s s' : State) : Prop where
  wlen : s.wlen = s'.wlen
  nblk : s.nblk = s'.nblk
  whole : s.wlen = 8 * s.nblk

/-- OUT below `n`, equal in both. -/
def SameOut (n : Nat) (s s' : State) : Prop := ∀ a, a < n → outByte s a = outByte s' a

theorem sameOut_zero (s s' : State) : SameOut 0 s s' := fun a h => absurd h (Nat.not_lt_zero a)

/-- The same block in work in both, with the round keys and the blocks before it equal. -/
structure SameBlock (s s' : State) : Prop where
  rk : s.rk = s'.rk
  b : s.b = s'.b
  index : s.b < s.nblk
  stored : SameOut (8 * s.b) s s'

/-- Two runs that have ended alike. -/
structure SameResult (s s' : State) : Prop where
  phase : s.phase = phaseIdle
  phase' : s'.phase = phaseIdle
  busy : s.busy = false
  done : s.done = true
  status : s.status = s'.status
  olen : s.olen = s'.olen
  result : s.err = 0 → SameOut s.olen s s'

/-- What two runs from the same operands agree on, phase by phase. -/
inductive SameRun (s s' : State) : Prop where
  | keychk (both : BothAt phaseKeychk s s')
  | lenchk (both : BothAt phaseLenchk s s') (key : s.key = s'.key)
  | ksPc1 (both : BothAt phaseKsPc1 s s') (len : SameLengths s s') (key : s.key = s'.key)
  | ksRound (both : BothAt phaseKsRound s s') (len : SameLengths s s') (index : s.i.toNat < 16) (i : s.i = s'.i)
      (c : s.c = s'.c) (d : s.d = s'.d) (keys : ∀ j, j < s.i.toNat → s.rk[j]? = s'.rk[j]?)
  | blkLoad (both : BothAt phaseBlkLoad s s') (len : SameLengths s s') (block : SameBlock s s')
  | blkRound (both : BothAt phaseBlkRound s s') (len : SameLengths s s') (block : SameBlock s s')
      (index : s.i.toNat < 16) (i : s.i = s'.i) (l : s.l = s'.l) (r : s.r = s'.r)
  | blkStore (both : BothAt phaseBlkStore s s') (len : SameLengths s s') (block : SameBlock s s')
      (l : s.l = s'.l) (r : s.r = s'.r)
  | strip (both : BothAt phaseStrip s s') (len : SameLengths s s') (stored : SameOut s.wlen s s')
  | finish (both : BothAt phaseFinish s s') (len : SameLengths s s') (stored : SameOut s.wlen s s')
      (olen : (s.pad && s.dir) = true → s.olen ≤ s.wlen)
  | ended (same : SameResult s s')

/-- How many steps a run in phase `p` has left at most (44_block_controller.md R172). -/
def runLeftAt (p : BitVec 4) (s : State) : Nat :=
  match p.toNat with
  | 1 => 18 * (workingLength s / 8) + 21
  | 2 => 18 * (workingLength s / 8) + 20
  | 3 => 18 * s.nblk + 19
  | 4 => 18 * s.nblk + 2 + (16 - s.i.toNat)
  | 5 => 18 * (s.nblk - s.b) + 2
  | 6 => 18 * (s.nblk - s.b) - 15 + (16 - s.i.toNat)
  | 7 => 18 * (s.nblk - s.b) - 15
  | 8 => 2
  | 9 => 1
  | _ => 0

/-- How many steps a run has left at most. -/
def runLeft (s : State) : Nat := runLeftAt s.phase s

/-- A step of both: the runs agree after it, and the first has fewer steps left than before. -/
def Advances (s t t' : State) : Prop := SameRun t t' ∧ runLeft t < runLeft s

section
variable {s s' t t' : State} {p : BitVec 4}

theorem InRun.runLeft_eq (h : InRun p s) : runLeft s = runLeftAt p s := by rw [runLeft, h.phase]

/-- Both machines perform the micro-operation of their phase: what it does in both is a step of both. -/
theorem BothAt.step {i : Instr} (h : BothAt p s s') (hd : decodeUop p = .ok i)
    (index : i = .ksRound ∨ i = .blkRound → s.i.toNat < 16 ∧ s.i = s'.i)
    (after : ∀ {t t'}, exec i s = .next t → exec i s' = .next t' → Advances s t t') :
    s.busy = true ∧ s'.busy = true ∧ ∃ t t', step s = .next t ∧ step s' = .next t' ∧ Advances s t t' := by
  obtain ⟨t, ht⟩ : ∃ t, exec i s = .next t := exec_next_of_index fun hi => (index hi).1
  obtain ⟨t', ht'⟩ : ∃ t', exec i s' = .next t' := exec_next_of_index fun hi => (index hi).2 ▸ (index hi).1
  exact ⟨h.run.busy, h.run'.busy, t, t', (step_of_uop h.operands.quiet (h.run.phase ▸ hd)).trans ht,
    (step_of_uop h.operands.quiet' (h.run'.phase ▸ hd)).trans ht', after ht ht'⟩

/-! ### What the datapath reads is the same -/

theorem SameOperands.workingLength_eq (h : SameOperands s s') : workingLength s = workingLength s' := by
  rw [workingLength, workingLength, h.pad, h.dir, h.dlen]

theorem SameOperands.phaseAfterBlocks_eq (h : SameOperands s s') : phaseAfterBlocks s = phaseAfterBlocks s' := by
  rw [phaseAfterBlocks, phaseAfterBlocks, h.pad, h.dir]

theorem SameOperands.keyWord_eq (h : SameOperands s s') (hk : 8 ≤ s.klen) : keyWord s = keyWord s' := by
  have bytes : readBytes (keyByte s) 0 8 = readBytes (keyByte s') 0 8 :=
    readBytes_congr fun k hlt => by simpa using h.keyBytes hk k hlt
  exact congrArg wordOfBytes bytes

/-- Below WLEN the two TEXT views are equal (20_memory.md R52). -/
theorem SameOperands.textByte_eq (h : SameOperands s s') (len : SameLengths s s') {a : Nat} (ha : a < s.wlen) :
    textByte s a = textByte s' a := by
  unfold textByte
  rw [← h.dlen, ← len.wlen, if_pos ha, if_pos ha]
  split
  case isTrue hd => exact h.data a hd
  case isFalse => rfl

theorem SameOperands.textBlock_eq (h : SameOperands s s') (len : SameLengths s s') (block : SameBlock s s') :
    textBlock s s.b = textBlock s' s'.b := by
  have hlt := block.index
  have hw := len.whole
  have bytes : readBytes (textByte s) (8 * s.b) 8 = readBytes (textByte s') (8 * s'.b) 8 := by
    rw [← block.b]
    exact readBytes_congr fun k hk => h.textByte_eq len (by omega)
  exact congrArg wordOfBytes bytes

theorem storedBytes_eq (l : s.l = s'.l) (r : s.r = s'.r) : storedBytes s = storedBytes s' := by
  rw [storedBytes, storedBytes, l, r]

theorem byteOr_writeBytes_out {m : Memory} {vs : List Byte} {a x n : Nat} {sp : Space} (h : x < a) :
    byteOr (Memory.writeBytes m a vs) n sp x = byteOr m n sp x := by
  rw [byteOr, byteOr, Memory.read_writeBytes_out _ _ _ _ (.inl h)]

theorem byteOr_writeBytes_mem {m : Memory} {vs : List Byte} {a j n : Nat} {sp : Space} (h : j < vs.length) :
    byteOr (Memory.writeBytes m a vs) n sp (a + j) = vs[j] := by
  rw [byteOr, Memory.read_writeBytes_mem _ _ _ _ h, Option.getD_some]

/-- The same eight bytes stored after the same blocks. -/
theorem SameOut.writeBytes_block {b : Nat} {vs : List Byte} (h : SameOut (8 * b) s s') (hl : vs.length = 8)
    (ht : t.outbuf = Memory.writeBytes s.outbuf (8 * b) vs) (ht' : t'.outbuf = Memory.writeBytes s'.outbuf (8 * b) vs)
    (hr : t.resets = s.resets) (hr' : t'.resets = s'.resets) : SameOut (8 * (b + 1)) t t' := by
  intro a ha
  rw [outByte, outByte, ht, ht', hr, hr']
  by_cases hlow : a < 8 * b
  · rw [byteOr_writeBytes_out hlow, byteOr_writeBytes_out hlow]
    exact h a hlow
  · obtain ⟨j, rfl⟩ := Nat.exists_eq_add_of_le (Nat.le_of_not_lt hlow)
    have hj : j < vs.length := by omega
    rw [byteOr_writeBytes_mem hj, byteOr_writeBytes_mem hj]

/-! ### One step of both -/

/-- Two aborts for the same reason end two runs alike. -/
theorem BothAt.raise (h : BothAt p s s') (e : ErrorKind) (hp : 0 < runLeftAt p s) :
    Advances s (raise e s) (raise e s') := by
  refine ⟨.ended ⟨rfl, rfl, raise_busy e s, raise_done e s, rfl, rfl, fun _ => sameOut_zero _ _⟩, ?_⟩
  rw [h.run.runLeft_eq]
  exact hp

/-- After the last block both runs are at STRIP or both at FINISH. -/
theorem BothAt.afterBlocks (h : BothAt (phaseAfterBlocks t) t t') (len : SameLengths t t')
    (stored : SameOut t.wlen t t') : SameRun t t' ∧ runLeft t ≤ 2 := by
  rw [h.run.runLeft_eq]
  unfold phaseAfterBlocks at h ⊢
  by_cases hd : (t.pad && t.dir) = true
  · rw [if_pos hd] at h ⊢
    exact ⟨.strip h len stored, le_rfl⟩
  · rw [if_neg hd] at h ⊢
    exact ⟨.finish h len stored (absurd · hd), Nat.le_succ 1⟩

theorem BothAt.after_keychk (h : BothAt phaseKeychk s s') (he : exec .keychk s = .next t)
    (he' : exec .keychk s' = .next t') : Advances s t t' := by
  have hlong := h.operands.keyLong
  obtain ⟨hk, rfl⟩ | ⟨hk, rfl⟩ := exec_keychk_cases he <;>
    obtain ⟨hk', rfl⟩ | ⟨hk', rfl⟩ := exec_keychk_cases he'
  · exact h.raise _ (Nat.succ_pos _)
  · omega
  · omega
  · refine ⟨.lenchk ⟨⟨rfl, h.run.status⟩, ⟨rfl, h.run'.status⟩, h.olen, { h.operands with }⟩
      (h.operands.keyWord_eq hk), ?_⟩
    rw [h.run.runLeft_eq]
    exact Nat.lt_succ_self _

theorem BothAt.after_lenchk (h : BothAt phaseLenchk s s') (key : s.key = s'.key) (he : exec .lenchk s = .next t)
    (he' : exec .lenchk s' = .next t') : Advances s t t' := by
  have hw := h.operands.workingLength_eq
  obtain ⟨hl, rfl⟩ | ⟨hl, rfl⟩ := exec_lenchk_cases he <;>
    obtain ⟨hl', rfl⟩ | ⟨hl', rfl⟩ := exec_lenchk_cases he'
  · exact h.raise _ (Nat.succ_pos _)
  · omega
  · omega
  · have whole : workingLength s = 8 * (workingLength s / 8) := by omega
    refine ⟨.ksPc1 ⟨⟨rfl, h.run.status⟩, ⟨rfl, h.run'.status⟩, h.olen, { h.operands with }⟩
      ⟨hw, congrArg (· / 8) hw, whole⟩ key, ?_⟩
    rw [h.run.runLeft_eq]
    exact Nat.lt_succ_self _

theorem BothAt.after_ksPc1 (h : BothAt phaseKsPc1 s s') (len : SameLengths s s') (key : s.key = s'.key)
    (he : exec .ksPc1 s = .next t) (he' : exec .ksPc1 s' = .next t') : Advances s t t' := by
  obtain rfl := eq_of_exec_ksPc1 he
  obtain rfl := eq_of_exec_ksPc1 he'
  refine ⟨.ksRound ⟨⟨rfl, h.run.status⟩, ⟨rfl, h.run'.status⟩, h.olen, { h.operands with }⟩ { len with }
    (show (0 : BitVec 5).toNat < 16 by decide) rfl (by rw [key]) (by rw [key])
    (fun j hj => absurd hj (Nat.not_lt_zero j)), ?_⟩
  rw [h.run.runLeft_eq]
  exact Nat.lt_succ_self _

/-- KS_ROUND makes the same entry of RK in both, and keeps the ones before it. -/
theorem ksRoundStep_keys (i : s.i = s'.i) (c : s.c = s'.c) (d : s.d = s'.d)
    (keys : ∀ j, j < s.i.toNat → s.rk[j]? = s'.rk[j]?) {j : Nat} (hj : j < s.i.toNat + 1) :
    (ksRoundStep s).rk[j]? = (ksRoundStep s').rk[j]? := by
  rw [ksRoundStep_rk, ksRoundStep_rk, ← i, ← c, ← d, Vector.getElem?_setIfInBounds, Vector.getElem?_setIfInBounds]
  split
  case isTrue => rfl
  case isFalse hne => exact keys j (by omega)

theorem roundKeys_ext {rk rk' : RoundKeys} (h : ∀ j, j < 16 → rk[j]? = rk'[j]?) : rk = rk' := by
  apply Vector.ext
  intro j hj
  simpa [hj] using h j hj

/-- The sixteenth round key of both: the keys are complete, and both go to their first block or past the blocks
(44_block_controller.md R183). -/
theorem BothAt.after_lastKey (h : BothAt phaseKsRound s s') (len : SameLengths s s')
    (last : s.i.toNat + 1 = Config.nRounds) (last' : s'.i.toNat + 1 = Config.nRounds)
    (rk : (ksRoundStep s).rk = (ksRoundStep s').rk) : Advances s (ksRoundStep s) (ksRoundStep s') := by
  have ops : SameOperands (ksRoundStep s) (ksRoundStep s') := { h.operands with }
  have len' : SameLengths (ksRoundStep s) (ksRoundStep s') := { len with }
  have left : runLeft s = 18 * s.nblk + 2 + (16 - s.i.toNat) := h.run.runLeft_eq
  have phase : (ksRoundStep s).phase = phaseAfterKeys s := by simp [last]
  have phase' : (ksRoundStep s').phase = phaseAfterKeys s' := by simp [last']
  rw [phaseAfterKeys] at phase phase'
  rw [← len.nblk, ← h.operands.phaseAfterBlocks_eq] at phase'
  by_cases hn : 0 < s.nblk
  · rw [if_pos hn] at phase phase'
    have hb : (ksRoundStep s).b = 0 := by simp [last]
    have hb' : (ksRoundStep s').b = 0 := by simp [last']
    have block : SameBlock (ksRoundStep s) (ksRoundStep s') :=
      ⟨rk, hb.trans hb'.symm, by rw [hb]; exact hn, by rw [hb]; exact sameOut_zero _ _⟩
    have both : BothAt phaseBlkLoad (ksRoundStep s) (ksRoundStep s') :=
      ⟨⟨phase, h.run.status⟩, ⟨phase', h.run'.status⟩, h.olen, ops⟩
    have left' : runLeft (ksRoundStep s) = 18 * (s.nblk - 0) + 2 := by rw [both.run.runLeft_eq, ← hb]; rfl
    have : s.i.toNat + 1 = 16 := last
    exact ⟨.blkLoad both len' block, by omega⟩
  · rw [if_neg hn] at phase phase'
    have hw : (ksRoundStep s).wlen = 0 := len.whole.trans (by omega)
    have both : BothAt (phaseAfterBlocks (ksRoundStep s)) (ksRoundStep s) (ksRoundStep s') :=
      ⟨⟨phase, h.run.status⟩, ⟨phase', h.run'.status⟩, h.olen, ops⟩
    obtain ⟨same, left'⟩ := both.afterBlocks len' (by rw [hw]; exact sameOut_zero _ _)
    have : s.i.toNat + 1 = 16 := last
    exact ⟨same, by omega⟩

theorem BothAt.after_ksRound (h : BothAt phaseKsRound s s') (len : SameLengths s s') (i : s.i = s'.i)
    (c : s.c = s'.c) (d : s.d = s'.d) (keys : ∀ j, j < s.i.toNat → s.rk[j]? = s'.rk[j]?)
    (he : exec .ksRound s = .next t) (he' : exec .ksRound s' = .next t') : Advances s t t' := by
  obtain ⟨hi, rfl⟩ := eq_of_exec_ksRound he
  obtain ⟨-, rfl⟩ := eq_of_exec_ksRound he'
  by_cases last : s.i.toNat + 1 = Config.nRounds
  · have h16 : s.i.toNat + 1 = 16 := last
    exact h.after_lastKey len last (i ▸ last)
      (roundKeys_ext fun j hj => ksRoundStep_keys i c d keys (by omega))
  · have last' : ¬ s'.i.toNat + 1 = Config.nRounds := i ▸ last
    have hi' : (ksRoundStep s).i.toNat = s.i.toNat + 1 := toNat_index_succ s.i hi
    have both : BothAt phaseKsRound (ksRoundStep s) (ksRoundStep s') :=
      ⟨⟨by simpa [last] using h.run.phase, h.run.status⟩, ⟨by simpa [last'] using h.run'.phase, h.run'.status⟩,
        h.olen, { h.operands with }⟩
    have hne : s.i.toNat + 1 ≠ 16 := last
    refine ⟨.ksRound both { len with } (by omega) (congrArg (· + 1) i) ?_ ?_
      (fun j hj => ksRoundStep_keys i c d keys (hi' ▸ hj)), ?_⟩
    · rw [ksRoundStep_c, ksRoundStep_c, i, c, d]
    · rw [ksRoundStep_d, ksRoundStep_d, i, c, d]
    · have left : runLeft s = 18 * s.nblk + 2 + (16 - s.i.toNat) := h.run.runLeft_eq
      have left' : runLeft (ksRoundStep s) = 18 * s.nblk + 2 + (16 - (ksRoundStep s).i.toNat) := both.run.runLeft_eq
      omega

theorem BothAt.after_blkLoad (h : BothAt phaseBlkLoad s s') (len : SameLengths s s') (block : SameBlock s s')
    (he : exec .blkLoad s = .next t) (he' : exec .blkLoad s' = .next t') : Advances s t t' := by
  have text := h.operands.textBlock_eq len block
  have hb := block.index
  obtain rfl := eq_of_exec_blkLoad he
  obtain rfl := eq_of_exec_blkLoad he'
  refine ⟨.blkRound ⟨⟨rfl, h.run.status⟩, ⟨rfl, h.run'.status⟩, h.olen, { h.operands with }⟩ { len with }
    { block with } (show (0 : BitVec 5).toNat < 16 by decide) rfl (by rw [text]) (by rw [text]), ?_⟩
  rw [h.run.runLeft_eq]
  show 18 * (s.nblk - s.b) - 15 + (16 - 0) < 18 * (s.nblk - s.b) + 2
  omega

theorem BothAt.after_blkRound (h : BothAt phaseBlkRound s s') (len : SameLengths s s') (block : SameBlock s s')
    (i : s.i = s'.i) (l : s.l = s'.l) (r : s.r = s'.r)
    (he : exec .blkRound s = .next t) (he' : exec .blkRound s' = .next t') : Advances s t t' := by
  obtain ⟨hi, rfl⟩ := eq_of_exec_blkRound he
  obtain ⟨-, rfl⟩ := eq_of_exec_blkRound he'
  have ops : SameOperands (blkRoundStep s) (blkRoundStep s') := { h.operands with }
  have block' : SameBlock (blkRoundStep s) (blkRoundStep s') := { block with }
  have hi' : (blkRoundStep s).i.toNat = s.i.toNat + 1 := toNat_index_succ s.i hi
  have hl : (blkRoundStep s).l = (blkRoundStep s').l := by
    rw [blkRoundStep_l, blkRoundStep_l, i, l, r, block.rk, h.operands.dir]
  have hr : (blkRoundStep s).r = (blkRoundStep s').r := by
    rw [blkRoundStep_r, blkRoundStep_r, i, l, r, block.rk, h.operands.dir]
  have left : runLeft s = 18 * (s.nblk - s.b) - 15 + (16 - s.i.toNat) := h.run.runLeft_eq
  by_cases last : s.i.toNat + 1 = Config.nRounds
  · have last' : s'.i.toNat + 1 = Config.nRounds := i ▸ last
    have both : BothAt phaseBlkStore (blkRoundStep s) (blkRoundStep s') :=
      ⟨⟨by simp [last], h.run.status⟩, ⟨by simp [last'], h.run'.status⟩, h.olen, ops⟩
    have left' : runLeft (blkRoundStep s) = 18 * (s.nblk - s.b) - 15 := both.run.runLeft_eq
    exact ⟨.blkStore both { len with } block' hl hr, by omega⟩
  · have last' : ¬ s'.i.toNat + 1 = Config.nRounds := i ▸ last
    have both : BothAt phaseBlkRound (blkRoundStep s) (blkRoundStep s') :=
      ⟨⟨by simpa [last] using h.run.phase, h.run.status⟩, ⟨by simpa [last'] using h.run'.phase, h.run'.status⟩,
        h.olen, ops⟩
    have hne : s.i.toNat + 1 ≠ 16 := last
    have left' : runLeft (blkRoundStep s) = 18 * (s.nblk - s.b) - 15 + (16 - (blkRoundStep s).i.toNat) :=
      both.run.runLeft_eq
    exact ⟨.blkRound both { len with } block' (by omega) (congrArg (· + 1) i) hl hr, by omega⟩

theorem BothAt.after_blkStore (h : BothAt phaseBlkStore s s') (len : SameLengths s s') (block : SameBlock s s')
    (l : s.l = s'.l) (r : s.r = s'.r)
    (he : exec .blkStore s = .next t) (he' : exec .blkStore s' = .next t') : Advances s t t' := by
  have hb := block.index
  have left : runLeft s = 18 * (s.nblk - s.b) - 15 := h.run.runLeft_eq
  have ht := eq_of_exec_blkStore he
  have ht' := eq_of_exec_blkStore he'
  have len' : SameLengths t t' := by rw [ht, ht']; exact { len with }
  rw [← storedBytes_eq l r, ← block.b, ← len.nblk, ← h.operands.phaseAfterBlocks_eq] at ht'
  have stored : SameOut (8 * (s.b + 1)) t t' := by
    subst ht ht'
    exact block.stored.writeBytes_block (length_storedBytes s) rfl rfl rfl rfl
  by_cases last : s.b + 1 = s.nblk
  · rw [if_pos last] at ht ht'
    have both : BothAt (phaseAfterBlocks t) t t' := by
      subst ht ht'
      exact ⟨⟨rfl, h.run.status⟩, ⟨rfl, h.run'.status⟩, h.olen, { h.operands with }⟩
    have hw : t.wlen = 8 * (s.b + 1) := by rw [ht, last]; exact len.whole
    obtain ⟨same, left'⟩ := both.afterBlocks len' (hw ▸ stored)
    exact ⟨same, by omega⟩
  · rw [if_neg last] at ht ht'
    have both : BothAt phaseBlkLoad t t' := by
      subst ht ht'
      exact ⟨⟨rfl, h.run.status⟩, ⟨rfl, h.run'.status⟩, h.olen, { h.operands with }⟩
    have tb : t.b = s.b + 1 := by rw [ht]
    have tn : t.nblk = s.nblk := by rw [ht]
    have block' : SameBlock t t' :=
      ⟨by subst ht ht'; exact block.rk, by rw [ht, ht'], by omega, tb ▸ stored⟩
    have left' : runLeft t = 18 * (t.nblk - t.b) + 2 := both.run.runLeft_eq
    exact ⟨.blkLoad both len' block', by omega⟩

theorem BothAt.after_strip (h : BothAt phaseStrip s s') (len : SameLengths s s') (stored : SameOut s.wlen s s')
    (he : exec .strip s = .next t) (he' : exec .strip s' = .next t') : Advances s t t' := by
  have pad : s.wlen ≠ 0 → padCount s = padCount s' := fun hw => by
    rw [padCount, padCount, ← len.wlen, stored _ (by omega)]
  have hlen := len.wlen
  obtain ⟨hn, rfl⟩ | ⟨hn, rfl⟩ := exec_strip_cases he <;>
    obtain ⟨hn', rfl⟩ | ⟨hn', rfl⟩ := exec_strip_cases he'
  · exact h.raise _ (Nat.succ_pos _)
  · omega
  · omega
  · have hp : padCount s = padCount s' := pad (by omega)
    refine ⟨.finish ⟨⟨rfl, h.run.status⟩, ⟨rfl, h.run'.status⟩, ?_, { h.operands with }⟩ { len with } stored
      (fun _ => Nat.sub_le _ _), ?_⟩
    · rw [len.wlen, hp]
    · rw [h.run.runLeft_eq]
      exact Nat.lt_succ_self _

theorem BothAt.after_finish (h : BothAt phaseFinish s s') (len : SameLengths s s') (stored : SameOut s.wlen s s')
    (olen : (s.pad && s.dir) = true → s.olen ≤ s.wlen)
    (he : exec .finish s = .next t) (he' : exec .finish s' = .next t') : Advances s t t' := by
  obtain rfl := eq_of_exec_finish he
  obtain rfl := eq_of_exec_finish he'
  have status : statusFinish s = statusFinish s' := by rw [statusFinish, statusFinish, h.run.err, h.run'.err]
  refine ⟨.ended ⟨rfl, rfl, busy_of_status rfl, done_of_status rfl, status, ?_, fun _ a ha => stored a ?_⟩, ?_⟩
  · rw [← h.operands.pad, ← h.operands.dir, h.olen, len.wlen]
  · refine lt_of_lt_of_le ha ?_
    dsimp only
    split
    case isTrue hd => exact olen hd
    case isFalse => exact le_rfl
  · rw [h.run.runLeft_eq]
    exact Nat.lt_succ_self _

/-! ### The two runs to their end -/

/-- Two runs that agree have ended alike, or both are busy and take a step after which they agree. -/
theorem SameRun.ended_or_advances (h : SameRun s s') : SameResult s s' ∨
    (s.busy = true ∧ s'.busy = true ∧ ∃ t t', step s = .next t ∧ step s' = .next t' ∧ Advances s t t') := by
  cases h with
  | keychk both => exact .inr (both.step (i := .keychk) rfl (by simp) both.after_keychk)
  | lenchk both key => exact .inr (both.step (i := .lenchk) rfl (by simp) (both.after_lenchk key))
  | ksPc1 both len key => exact .inr (both.step (i := .ksPc1) rfl (by simp) (both.after_ksPc1 len key))
  | ksRound both len index i c d keys =>
    exact .inr (both.step (i := .ksRound) rfl (fun _ => ⟨index, i⟩) (both.after_ksRound len i c d keys))
  | blkLoad both len block => exact .inr (both.step (i := .blkLoad) rfl (by simp) (both.after_blkLoad len block))
  | blkRound both len block index i l r =>
    exact .inr (both.step (i := .blkRound) rfl (fun _ => ⟨index, i⟩) (both.after_blkRound len block i l r))
  | blkStore both len block l r => exact .inr (both.step (i := .blkStore) rfl (by simp) (both.after_blkStore len block l r))
  | strip both len stored => exact .inr (both.step (i := .strip) rfl (by simp) (both.after_strip len stored))
  | finish both len stored olen => exact .inr (both.step (i := .finish) rfl (by simp) (both.after_finish len stored olen))
  | ended same => exact .inl same

/-- After `n` steps two machines have ended alike, both busy up to then. -/
def EndAlike (n : Nat) (s s' : State) : Prop :=
  (∃ t t', steps n s = .next t ∧ steps n s' = .next t' ∧ SameResult t t') ∧
  ∀ k, k < n → ∃ u u', steps k s = .next u ∧ steps k s' = .next u' ∧ u.busy = true ∧ u'.busy = true

theorem EndAlike.succ {n : Nat} (h : EndAlike n t t') (hs : step s = .next t) (hs' : step s' = .next t')
    (hb : s.busy = true) (hb' : s'.busy = true) : EndAlike (n + 1) s s' := by
  obtain ⟨last, before⟩ := h
  refine ⟨by simpa only [steps_succ hs, steps_succ hs'] using last, fun k hk => ?_⟩
  cases k with
  | zero => exact ⟨s, s', steps_zero s, steps_zero s', hb, hb'⟩
  | succ k => simpa only [steps_succ hs, steps_succ hs'] using before k (by omega)

/-- Two runs that agree end alike after the same number of steps. -/
theorem SameRun.endAlike (h : SameRun s s') : ∃ n, EndAlike n s s' := by
  induction hm : runLeft s using Nat.strong_induction_on generalizing s s' with
  | _ m ih =>
    obtain same | ⟨hb, hb', t, t', hs, hs', same, left⟩ := h.ended_or_advances
    · exact ⟨0, ⟨s, s', steps_zero s, steps_zero s', same⟩, fun k hk => absurd hk (Nat.not_lt_zero k)⟩
    · obtain ⟨n, hn⟩ := ih (runLeft t) (hm ▸ left) same rfl
      exact ⟨n + 1, hn.succ hs hs' hb hb'⟩

theorem SameResult.resultOperand_eq (h : SameResult s s') (he : s.err = 0) : resultOperand s = resultOperand s' := by
  rw [resultOperand, resultOperand, ← h.olen]
  exact readBytes_congr fun k hk => by simpa using h.result he k hk

theorem step_starting {w : BitVec 2} (hb : s.busy = false) :
    step (s.starting w) = .next (startRun w { s with hostq := [] }) := by
  have idle : State.busy { s with hostq := [] } = false := hb
  rw [step_of_writeCmd (s := s.starting w) (q := []) rfl, exec_decodeCmd]
  exact congrArg _ (start_of_idle idle)

end

/-- Settles O48: START makes the two machines agree at KEYCHK, and two runs that agree end alike. -/
theorem noHiddenState : Obligations.NoHiddenState := by
  intro s s' w hb hb' keyLong keyBytes dlen data
  have same : SameRun (startRun w { s with hostq := [] }) (startRun w { s' with hostq := [] }) :=
    .keychk ⟨⟨rfl, rfl⟩, ⟨rfl, rfl⟩, rfl, ⟨rfl, rfl, rfl, rfl, keyLong, keyBytes, dlen, data⟩⟩
  obtain ⟨n, ⟨t, t', ht, ht', result⟩, before⟩ := same.endAlike
  have first {k : Nat} {s : State} (hb : s.busy = false) :
      steps (1 + k) (s.starting w) = steps k (startRun w { s with hostq := [] }) := by
    rw [Nat.add_comm]
    exact steps_succ (step_starting hb)
  refine ⟨n, t, t', (first hb).trans ht, (first hb').trans ht', fun k hk => ?_, result.phase, result.phase',
    result.busy, result.done, result.status, result.olen, result.resultOperand_eq⟩
  rw [first hb, first hb']
  exact before k hk

end Sys2Proof.Machine
end

section
/-! PROOF. The byte spaces (20_memory.md): the TEXT view LENCHK makes, what the micro-operations read of a buffer, and
the blocks of a result. -/

namespace Sys2Proof.Machine

/-! ### The TEXT view (20_memory.md R52) -/

section
variable {s : State} {a : Nat}

theorem textByte_of_lt_dlen (h : a < s.dlen) : textByte s a = inByte s a := if_pos h

theorem textByte_of_dlen_le (h : s.dlen ≤ a) (hw : a < s.wlen) : textByte s a = Config.padByte := by
  rw [textByte, if_neg (Nat.not_lt.2 h), if_pos hw]

/-- ENCP pads by 1 to 8 bytes, up to the next multiple of 8. -/
theorem workingLength_of_encp (h : s.pad = true ∧ s.dir = false) :
    workingLength s = s.dlen + (8 - s.dlen % 8) := by
  simp [workingLength, h]

theorem workingLength_of_not_encp (h : ¬(s.pad = true ∧ s.dir = false)) : workingLength s = s.dlen := by
  rw [workingLength, if_neg (by simpa using h)]

end

/-- Settles O16: a LENCHK that passes sets WLEN to the working length and leaves IN and DLEN. -/
theorem textViewPads : Obligations.TextViewPads := by
  intro s t h hp
  obtain ⟨-, rfl⟩ | ⟨-, rfl⟩ := exec_lenchk_cases h
  · exact absurd hp (by simp [phaseIdle])
  refine ⟨rfl, fun a ha => textByte_of_lt_dlen ha, fun a ha hw => textByte_of_dlen_le ha hw, ?_⟩
  split
  case isTrue encp =>
    rw [setLengths_wlen, setLengths_dlen, workingLength_of_encp (s := s) encp]
    omega
  case isFalse other => exact workingLength_of_not_encp other

/-! ### What the micro-operations read (20_memory.md R51, R57, R60) -/

section
variable {s : State}

theorem exec_keychk_of_short (h : s.klen < 8) : exec .keychk s = .next (raise .invalidKeyLength s) :=
  congrArg _ (if_pos h)

theorem exec_keychk_of_long (h : 8 ≤ s.klen) :
    exec .keychk s = .next { s with key := keyWord s, phase := phaseLenchk } :=
  congrArg _ (if_neg (Nat.not_lt.2 h))

theorem exec_strip_of_unusable (h : s.wlen = 0 ∨ padCount s = 0 ∨ s.wlen < padCount s) :
    exec .strip s = .next (raise .padStripError s) :=
  congrArg _ (if_pos h)

theorem exec_strip_of_usable (h : ¬(s.wlen = 0 ∨ padCount s = 0 ∨ s.wlen < padCount s)) :
    exec .strip s = .next { s with olen := s.wlen - padCount s, phase := phaseFinish } :=
  congrArg _ (if_neg h)

/-- KEYCHK reads KEYBUF only if KLEN is 8 or more, and then the first eight bytes. -/
theorem exec_keychk_congr_keybuf {m : Memory}
    (h : 8 ≤ s.klen → ∀ k, k < 8 → keyByte { s with keybuf := m } k = keyByte s k) :
    ∃ t, exec .keychk s = .next t ∧ exec .keychk { s with keybuf := m } = .next { t with keybuf := m } := by
  obtain short | long := Nat.lt_or_ge s.klen 8
  · exact ⟨_, exec_keychk_of_short short, exec_keychk_of_short short⟩
  · have sameKey : keyWord { s with keybuf := m } = keyWord s :=
      congrArg wordOfBytes (readBytes_congr fun k hk => by simpa using h long k hk)
    refine ⟨_, exec_keychk_of_long long, (exec_keychk_of_long (s := { s with keybuf := m }) long).trans ?_⟩
    rw [sameKey]

/-- BLK_LOAD reads IN only through the eight bytes of TEXT of its block. -/
theorem exec_blkLoad_congr_inbuf {m : Memory}
    (h : ∀ k, k < 8 → textByte { s with inbuf := m } (8 * s.b + k) = textByte s (8 * s.b + k)) :
    ∃ t, exec .blkLoad s = .next t ∧ exec .blkLoad { s with inbuf := m } = .next { t with inbuf := m } := by
  have sameBlock : textBlock { s with inbuf := m } s.b = textBlock s s.b := congrArg wordOfBytes (readBytes_congr h)
  refine ⟨_, rfl, ?_⟩
  simp only [exec, execBlkLoad, sameBlock]

/-- STRIP reads OUT only if WLEN is 1 or more, and then the byte at WLEN - 1. -/
theorem exec_strip_congr_outbuf {m : Memory}
    (h : 1 ≤ s.wlen → outByte { s with outbuf := m } (s.wlen - 1) = outByte s (s.wlen - 1)) :
    ∃ t, exec .strip s = .next t ∧ exec .strip { s with outbuf := m } = .next { t with outbuf := m } := by
  obtain hw | hw := Nat.eq_zero_or_pos s.wlen
  · exact ⟨_, exec_strip_of_unusable (.inl hw), exec_strip_of_unusable (.inl hw)⟩
  have samePad : padCount { s with outbuf := m } = padCount s := congrArg BitVec.toNat (h hw)
  by_cases hn : s.wlen = 0 ∨ padCount s = 0 ∨ s.wlen < padCount s
  · exact ⟨_, exec_strip_of_unusable hn, exec_strip_of_unusable (by rw [samePad]; exact hn)⟩
  · refine ⟨_, exec_strip_of_usable hn, (exec_strip_of_usable (by rw [samePad]; exact hn)).trans ?_⟩
    rw [samePad]

/-- A block in work ends below WLEN. -/
theorem Inv.block_lt_wlen (h : Inv s) (hp : s.phase = phaseBlkLoad ∨ s.phase = phaseBlkStore) :
    8 * s.b + 7 < s.wlen := by
  have inBlocks : 5 ≤ s.phase.toNat ∧ s.phase.toNat ≤ 7 := by
    rcases hp with hp | hp <;> rw [hp] <;> decide
  have index := (h.blockInWork rfl inBlocks.1 inBlocks.2).index
  have whole := (h.checked rfl (by omega)).wholeBlocks
  omega

/-- The byte STRIP reads has been written. -/
theorem Inv.strip_read_written (h : Inv s) (hp : s.phase = phaseStrip) (hw : 1 ≤ s.wlen) :
    (Memory.read? s.outbuf (s.wlen - 1)).isSome = true :=
  h.allStored (by rw [hp]; decide) _ (by omega)

end

/-- Row, column and address of an S-box group are in range, so the nine address bits cut nothing off
(30_encoding.md R87). -/
theorem sboxAddr_in_range {x : BitVec 48} {g row col : Nat} (hg : g < 8)
    (hrow : row = 2 * (bitAt x (6 * g + 1)).toNat + (bitAt x (6 * g + 6)).toNat)
    (hcol : col = 8 * (bitAt x (6 * g + 2)).toNat + 4 * (bitAt x (6 * g + 3)).toNat +
      2 * (bitAt x (6 * g + 4)).toNat + (bitAt x (6 * g + 5)).toNat) :
    row < 4 ∧ col < 16 ∧ (sboxAddr x g).toNat = 64 * g + 16 * row + col ∧ 64 * g + 16 * row + col < 512 := by
  have bit (j : Nat) : (bitAt x (6 * g + j)).toNat ≤ 1 := Bool.toNat_le _
  have row_lt : row < 4 := by have := bit 1; have := bit 6; omega
  have col_lt : col < 16 := by have := bit 2; have := bit 3; have := bit 4; have := bit 5; omega
  have addr_lt : 64 * g + 16 * row + col < 512 := by omega
  have addr : sboxAddr x g = BitVec.ofNat 9 (64 * g + 16 * row + col) := by rw [hrow, hcol]; rfl
  refine ⟨row_lt, col_lt, ?_, addr_lt⟩
  rw [addr, BitVec.toNat_ofNat]
  exact Nat.mod_eq_of_lt addr_lt

/-- Settles O43: the reads of KEYCHK, BLK_LOAD and STRIP, their ranges under the invariant, and the S-box address. -/
theorem accessesInRange : Obligations.AccessesInRange :=
  ⟨fun _ _ h => exec_keychk_congr_keybuf h, fun _ h hp => h.block_lt_wlen hp, fun _ _ h => exec_blkLoad_congr_inbuf h,
    fun _ h hp hw => h.strip_read_written hp hw, fun _ _ h => exec_strip_congr_outbuf h,
    fun _ _ _ _ hg hrow hcol => sboxAddr_in_range hg hrow hcol⟩

/-! ### The blocks of a result (20_memory.md R62) -/

/-- A run without pad that succeeds had whole blocks, and its result is those blocks one after another. -/
theorem run_unpadded_ok {key data out : List Byte} {dir : Bool} (h : run key data dir false = .ok out) :
    data.length % 8 = 0 ∧ out = ecb (ks (wordOfBytes (key.take 8))) dir data := by
  have noPad : ¬(false = true ∧ dir = false) := by simp
  by_cases short : key.length < 8
  · simp [run, short] at h
  by_cases whole : data.length % 8 = 0
  · rw [run_of_workingText (Nat.le_of_not_lt short) (workingText_aligned whole noPad)] at h
    exact ⟨whole, (Except.ok.inj h).symm⟩
  · simp [run, short, workingText_unaligned whole noPad] at h

/-- Output block `b` is the block function of input block `b`. -/
theorem block_ecb (rk : RoundKeys) (dir : Bool) (b : Nat) : ∀ ys : List Byte, 8 * b + 8 ≤ ys.length →
    ((ecb rk dir ys).drop (8 * b)).take 8 =
      bytesOfWord (blockCipher rk dir (wordOfBytes ((ys.drop (8 * b)).take 8))) := by
  induction b with
  | zero =>
    intro ys h
    rw [ecb_cons rk dir ys (by omega)]
    exact List.take_left' (length_bytesOfWord _)
  | succ b ih =>
    intro ys h
    have next : 8 * (b + 1) = 8 + 8 * b := by omega
    rw [ecb_cons rk dir ys (by omega), next, ← List.drop_drop, List.drop_left' (length_bytesOfWord _),
      ih (ys.drop 8) (by rw [List.length_drop]; omega), List.drop_drop]

/-- Settles O35: the result of a run without pad is its blocks in order, each a function of its own input block. -/
theorem blocksIndependent : Obligations.BlocksIndependent := by
  intro key data out dir h b hb
  obtain ⟨whole, rfl⟩ := run_unpadded_ok h
  exact block_ecb _ dir b data (by omega)

end Sys2Proof.Machine
end

section
/-! PROOF. The statements about the two code formats: one lemma per direction and per format, as 30_encoding.md keeps
commands (R82) and phase codes (R84) apart. -/

namespace Sys2Proof.Machine

theorem decode_encode (i : Instr) : decode (encode i) = .ok i := by
  cases i <;> rfl

theorem encode_decodeCmd (w : BitVec 2) : encode (decodeCmd w) = .cmd w := by
  revert w
  decide

/-- The phase codes past FINISH name no micro-operation (30_encoding.md R90). -/
theorem decodeUop_of_ten_le {c : BitVec 4} (h : 10 ≤ c.toNat) : decodeUop c = .error (.undefinedPhase c) := by
  revert c
  decide

theorem encode_of_decodeUop {c : BitVec 4} {i : Instr} (h : decodeUop c = .ok i) : encode i = .uop c := by
  rcases Nat.lt_or_ge c.toNat 10 with defined | undefined
  · obtain ⟨j, hj, code⟩ := decodeUop_eq c (Nat.le_of_lt_succ defined)
    have : i = j := Except.ok.inj (h.symm.trans hj)
    rwa [this]
  · rw [decodeUop_of_ten_le undefined] at h
    cases h

theorem encode_of_decode {c : Code} {i : Instr} (h : decode c = .ok i) : encode i = c := by
  cases c with
  | cmd w =>
    have : decodeCmd w = i := Except.ok.inj h
    rw [← this, encode_decodeCmd]
  | uop c => exact encode_of_decodeUop h

theorem decodeUop_refuses_iff {c : BitVec 4} : (∃ e, decodeUop c = .error e) ↔ 10 ≤ c.toNat :=
  ⟨fun ⟨_, h⟩ => (decodeUop_error h).1, fun h => ⟨_, decodeUop_of_ten_le h⟩⟩

/-- The check on codes and the decoder refuse the same codes: no command word (30_encoding.md R90), and the phase codes
of 10 or more. -/
theorem wf_eq_false_iff_decode_refuses (c : Code) : c.wf = false ↔ ∃ e, decode c = .error e := by
  cases c with
  | cmd w => simp [Code.wf, decode]
  | uop c =>
    have : (Code.uop c).wf = false ↔ 10 ≤ c.toNat := by simp [Code.wf]
    exact this.trans decodeUop_refuses_iff.symm

/-- Settles O2: instruction by instruction one way, and format by format for the codes. -/
theorem decodeInvertsEncode : Obligations.DecodeInvertsEncode :=
  ⟨fun i _ => decode_encode i, fun _ _ => encode_of_decode, wf_eq_false_iff_decode_refuses⟩

/-- Settles O1: each printed word is the code of its instruction, and decoding inverts encoding. -/
theorem specWordsDecode : Obligations.SpecWordsDecode :=
  ⟨decode_encode .enc, decode_encode .dec, decode_encode .encp, decode_encode .decp, decode_encode .idle,
    decode_encode .keychk, decode_encode .ksRound, decode_encode .blkRound, decode_encode .finish⟩

end Sys2Proof.Machine
end

section
/-! PROOF. The bit converter (40_bitconverter.md): a value and its sequence, then the bytes of a text as the groups of
eight bits of its sequence. -/

namespace Sys2Proof.Machine

/-! ### A value and its sequence (R102) -/

theorem toNat_ofBits {n : Nat} {x : BitSeq} (h : x.length = n) : (ofBits n x).toNat = val x := by
  subst h
  exact (BitVec.toNat_ofNat _ _).trans (Nat.mod_eq_of_lt (val_lt x))

theorem val_toBits {n : Nat} (x : BitVec n) : val (toBits x) = x.toNat := by
  rw [← toNat_ofBits (length_toBits x), ofBits_toBits]

theorem bitsN_val (x : BitSeq) : bitsN x.length (val x) = x := by
  rw [← toNat_ofBits rfl, bitsN_toNat, toBits_ofBits rfl]

theorem val_bitsN {n v : Nat} (h : v < 2 ^ n) : val (bitsN n v) = v := by
  have register : (BitVec.ofNat n v).toNat = v := (BitVec.toNat_ofNat _ _).trans (Nat.mod_eq_of_lt h)
  calc val (bitsN n v) = val (toBits (BitVec.ofNat n v)) := by rw [← bitsN_toNat, register]
    _ = v := by rw [val_toBits, register]

/-- Position `p` of a value's sequence. -/
theorem getD_bitsN {n v p : Nat} (hp : 1 ≤ p) (hn : p ≤ n) :
    (bitsN n v).getD (p - 1) false = (v / 2 ^ (n - p) % 2 == 1) := by
  have inside : p - 1 < n := by omega
  simp [bitsN, List.getD, inside, Nat.sub_add_cancel hp]

theorem valueToBinaryString_of_le {v n : Nat} (h : 2 ^ n ≤ v) : valueToBinaryString v n = .error .valueTooLarge :=
  if_pos h

theorem valueToBinaryString_of_lt {v n : Nat} (h : v < 2 ^ n) : valueToBinaryString v n = .ok (bitsN n v) :=
  if_neg (Nat.not_le.2 h)

/-! ### Bytes and their groups of eight bits (R100, R101) -/

/-- Group `k` of a text's bits is the bits of byte `k`. -/
theorem take_drop_textToBits : ∀ {ys : List Byte} {k : Nat}, k < ys.length →
    ((textToBits ys).drop (8 * k)).take 8 = toBits (ys.getD k 0)
  | [], _, h => absurd h (Nat.not_lt_zero _)
  | y :: ys, 0, _ => by
    rw [textToBits_cons]
    exact List.take_left' (length_toBits y)
  | y :: ys, k + 1, h => by
    have next : 8 * (k + 1) = 8 + 8 * k := by omega
    rw [textToBits_cons, next, ← List.drop_drop, List.drop_left' (length_toBits y),
      take_drop_textToBits (Nat.lt_of_succ_lt_succ h), List.getD_cons_succ]

/-- Position `8k + j` of a text's bits is position `j` of byte `k`. -/
theorem getD_textToBits {ys : List Byte} {k j : Nat} (hk : k < ys.length) (h1 : 1 ≤ j) (h8 : j ≤ 8) :
    (textToBits ys).getD (8 * k + j - 1) false = ((ys.getD k 0).toNat / 2 ^ (8 - j) % 2 == 1) := by
  have inside : j - 1 < 8 := by omega
  calc (textToBits ys).getD (8 * k + j - 1) false
      = (((textToBits ys).drop (8 * k)).take 8).getD (j - 1) false := by
        simp [List.getD, inside, Nat.add_sub_assoc h1]
    _ = (bitsN 8 (ys.getD k 0).toNat).getD (j - 1) false := by rw [take_drop_textToBits hk, bitsN_toNat]
    _ = _ := getD_bitsN h1 h8

theorem bitsToText_of_ragged {x : BitSeq} (h : x.length % 8 ≠ 0) : bitsToText x = .error .malformedBitLength :=
  if_pos h

theorem bitsToText_textToBits (ys : List Byte) : bitsToText (textToBits ys) = .ok ys := by
  have whole : (textToBits ys).length % 8 = 0 := by rw [length_textToBits]; exact Nat.mul_mod_right 8 _
  rw [bitsToText, if_neg (not_not_intro whole), chunkBytes_textToBits]

/-- A sequence of whole bytes is the bits of a text. -/
theorem exists_textToBits_eq {x : BitSeq} (h : x.length % 8 = 0) : ∃ ys, textToBits ys = x :=
  ⟨chunkBytes x, (textToBits_chunkBytes (x.length / 8) x (by omega)).2⟩

/-- Settles O25: positions of a text are positions of its bytes, and every sequence of whole bytes is a text's. -/
theorem bitConverterPositions : Obligations.BitConverterPositions := by
  refine ⟨fun ys => ⟨length_textToBits ys, fun k j hk h1 h8 => getD_textToBits hk h1 h8⟩,
    fun x h => bitsToText_of_ragged h, fun x h => ?_, fun v n _ h => valueToBinaryString_of_le h,
    fun v n _ h => ⟨bitsN n v, valueToBinaryString_of_lt h, length_bitsN n v, val_bitsN h,
      fun p hp hn => getD_bitsN hp hn⟩⟩
  obtain ⟨ys, rfl⟩ := exists_textToBits_eq h
  refine ⟨ys, bitsToText_textToBits ys, by rw [length_textToBits]; omega, fun k hk => ?_⟩
  rw [take_drop_textToBits hk, val_toBits]

/-- Settles O26: the four laws, the second for the text whose bits the sequence is. -/
theorem bitConverterInverse : Obligations.BitConverterInverse := by
  refine ⟨bitsToText_textToBits, fun x h => ?_, fun n v h => val_bitsN h, bitsN_val⟩
  obtain ⟨ys, rfl⟩ := exists_textToBits_eq h
  exact ⟨ys, bitsToText_textToBits ys, rfl⟩

end Sys2Proof.Machine
end

section
/-! PROOF. The constant tables (41_tables.md): what applying a table gives at a position (R110), two tables that undo
each other (R112), and the rows of the S-boxes (R122). -/

namespace Sys2Proof.Machine

theorem getD_mem {α : Type} {l : List α} {i : Nat} (h : i < l.length) (d : α) : l.getD i d ∈ l := by
  rw [List.getD_eq_getElem _ _ h]
  exact List.getElem_mem h

/-! ### Applying a table (R110, R112) -/

section
variable {n m : Nat} {t u : List Nat}

theorem tableOk_iff : tableOk n m t = true ↔ t.length = m ∧ ∀ q ∈ t, 1 ≤ q ∧ q ≤ n := by
  simp [tableOk]

theorem length_of_tableOk (h : tableOk n m t = true) : t.length = m := (tableOk_iff.1 h).1

/-- Every entry of a well-formed table is a position of its input. -/
theorem entry_of_tableOk (h : tableOk n m t = true) {p : Nat} (h1 : 1 ≤ p) (hm : p ≤ m) :
    1 ≤ t.getD (p - 1) 0 ∧ t.getD (p - 1) 0 ≤ n := by
  obtain ⟨length, entries⟩ := tableOk_iff.1 h
  exact entries _ (getD_mem (by omega) 0)

theorem bitAt_permute (h : t.length = m) (x : BitVec n) {p : Nat} (h1 : 1 ≤ p) (hm : p ≤ m) :
    bitAt (permute m t x) p = bitAt x (t.getD (p - 1) 0) :=
  getMsbD_permute h x (p - 1) (by omega)

/-- Entry `t(p)` of `u` is `p`, for every position `p` in `1..n` (41_tables.md R112). The bound comes first so that
`decide` can run the check. -/
def InverseEntries (n : Nat) (t u : List Nat) : Prop :=
  ∀ p, p < n + 1 → 1 ≤ p → u.getD (t.getD (p - 1) 0 - 1) 0 = p

/-- Position `p` of the outer result is position `t(p)` of the inner one, which is position `u(t(p))`, that is `p`, of
the value. -/
theorem permute_permute_of_inverseEntries (ht : tableOk n n t = true) (hu : tableOk n n u = true)
    (inverse : InverseEntries n t u) (x : BitVec n) : permute n t (permute n u x) = x := by
  refine eq_of_bitAt fun p h1 hn => ?_
  obtain ⟨entry1, entryN⟩ := entry_of_tableOk ht h1 hn
  calc bitAt (permute n t (permute n u x)) p
      = bitAt (permute n u x) (t.getD (p - 1) 0) := bitAt_permute (length_of_tableOk ht) _ h1 hn
    _ = bitAt x (u.getD (t.getD (p - 1) 0 - 1) 0) := bitAt_permute (length_of_tableOk hu) x entry1 entryN
    _ = bitAt x p := by rw [inverse p (Nat.lt_succ_of_le hn) h1]

end

/-- Settles O21: a well-formed table has as many entries as its output has positions. -/
theorem permutePositions : Obligations.PermutePositions :=
  fun _ _ _ x h _ h1 hm => bitAt_permute (length_of_tableOk h) x h1 hm

theorem inverseEntries_IP_FP : InverseEntries 64 tableIP tableFP := by
  unfold InverseEntries
  decide

theorem inverseEntries_FP_IP : InverseEntries 64 tableFP tableIP := by
  unfold InverseEntries
  decide

/-- Settles O22: each table has the inverse entries of the other, so each undoes the other on every value. -/
theorem initialPermutationInverse : Obligations.InitialPermutationInverse := by
  obtain ⟨okIP, okFP, -⟩ := tables_ok
  exact ⟨fun p h1 h64 => inverseEntries_IP_FP p (Nat.lt_succ_of_le h64) h1,
    permute_permute_of_inverseEntries okIP okFP inverseEntries_IP_FP,
    permute_permute_of_inverseEntries okFP okIP inverseEntries_FP_IP⟩

/-! ### The S-box ROM (R121, R122) -/

/-- Row `row` of S-box `g`, as printed. -/
def sboxRow (g row : Nat) : List (BitVec 4) := (boxes.getD g []).getD row []

section
variable {g row col : Nat}

theorem getD_sboxRow : (sboxRow g row).getD col 0 = sbox g row col := rfl

/-- The ROM holds `S[g][row][col]` at its address (41_tables.md R121). -/
theorem romRead_address (hg : g < 8) (hrow : row < 4) (hcol : col < 16) :
    romRead (BitVec.ofNat 9 (64 * g + 16 * row + col)) = sbox g row col := by
  have addr : (BitVec.ofNat 9 (64 * g + 16 * row + col)).toNat = 64 * g + 16 * row + col := by
    rw [BitVec.toNat_ofNat]
    omega
  have group : (64 * g + 16 * row + col) / 64 = g := by omega
  have rowBits : (64 * g + 16 * row + col) / 16 % 4 = row := by omega
  have column : (64 * g + 16 * row + col) % 16 = col := by omega
  rw [romRead, addr, group, rowBits, column]

/-- A row of a box is one of the printed rows. -/
theorem sboxRow_mem (hg : g < 8) (hrow : row < 4) : ∃ b ∈ boxes, sboxRow g row ∈ b := by
  obtain ⟨groups, shape⟩ := boxes_shape
  have box : boxes.getD g [] ∈ boxes := getD_mem (hg.trans_eq groups.symm) []
  obtain ⟨rows, -⟩ := shape _ box
  exact ⟨_, box, getD_mem (hrow.trans_eq rows.symm) []⟩

theorem length_sboxRow (hg : g < 8) (hrow : row < 4) : (sboxRow g row).length = 16 := by
  obtain ⟨b, box, printed⟩ := sboxRow_mem hg hrow
  exact (boxes_shape.2 b box).2 _ printed

/-- The sixteen ROM entries of a row are the row. -/
theorem map_romRead_range (hg : g < 8) (hrow : row < 4) :
    (List.range 16).map (fun col => romRead (BitVec.ofNat 9 (64 * g + 16 * row + col))) = sboxRow g row := by
  have length := length_sboxRow hg hrow
  refine List.ext_getElem (by rw [List.length_map, List.length_range, length]) fun col _ hcol => ?_
  rw [List.getElem_map, List.getElem_range, romRead_address hg hrow (hcol.trans_eq length), ← getD_sboxRow,
    List.getD_eq_getElem _ _ hcol]

end

/-- Every printed row is a permutation of the four-bit values (41_tables.md R122). -/
theorem boxes_rows_perm : ∀ b ∈ boxes, ∀ r ∈ b, r.Perm ((List.range 16).map (BitVec.ofNat 4)) := by decide

/-- Settles O23: the ROM's rows are the printed rows, and an entry is a four-bit register. -/
theorem sboxRowsArePermutations : Obligations.SboxRowsArePermutations := by
  refine ⟨fun g row hg hrow => ?_, fun a => ?_⟩
  · obtain ⟨b, box, printed⟩ := sboxRow_mem hg hrow
    rw [map_romRead_range hg hrow]
    exact boxes_rows_perm b box _ printed
  · have fits : (romRead a).toNat < 2 ^ 4 := (romRead a).isLt
    exact ⟨Nat.le_of_lt_succ fits, _, valueToBinaryString_of_lt fits⟩

end Sys2Proof.Machine
end

section
/-! PROOF. The key schedule (42_key_schedule.md): `rotl` is list rotation of the sequence, so the halves of every round
are the PC-1 halves rotated, and the round keys depend on the key through those halves only. -/

namespace Sys2Proof.Machine

/-! ### Rotation (R132) -/

/-- The value of two sequences one after the other (00_scope.md R8). -/
theorem val_append (x y : BitSeq) : val (x ++ y) = val x * 2 ^ y.length + val y := by
  rw [val, List.foldl_append]
  exact val_foldl y (val x)

theorem toBits_injective {n : Nat} : Function.Injective (toBits : BitVec n → BitSeq) := fun x y h => by
  rw [← ofBits_toBits x, h, ofBits_toBits]

section
variable {n : Nat}

theorem bitAt_rotl (x : BitVec n) (s : Nat) {p : Nat} (h1 : 1 ≤ p) (hn : p ≤ n) :
    bitAt (rotl x s) p = bitAt x ((p - 1 + s) % n + 1) := by
  have inside : p - 1 < n := by omega
  simp [bitAt, rotl, BitVec.getMsbD_rotateLeft, inside, Nat.add_comm]

/-- Rotating a register rotates its sequence, for every count. The laws of `rotl` are those of `List.rotate`. -/
theorem toBits_rotl (x : BitVec n) (s : Nat) : toBits (rotl x s) = (toBits x).rotate s := by
  refine List.ext_getElem (by simp) fun k hk _ => ?_
  have inside : k < n := by simpa using hk
  simp [List.getElem_rotate, toBits, bitAt_rotl x s (Nat.succ_pos k) inside]

theorem toBits_rotl_of_le (x : BitVec n) {s : Nat} (h : s ≤ n) :
    toBits (rotl x s) = (toBits x).drop s ++ (toBits x).take s := by
  rw [toBits_rotl, List.rotate_eq_drop_append_take (by simpa using h)]

theorem rotl_rotl (x : BitVec n) (a b : Nat) : rotl (rotl x a) b = rotl x (a + b) :=
  toBits_injective (by simp only [toBits_rotl, List.rotate_rotate])

theorem rotl_mod (x : BitVec n) (s : Nat) : rotl x (s % n) = rotl x s := BitVec.rotateLeft_mod_eq_rotateLeft

theorem rotl_zero (x : BitVec n) : rotl x 0 = x :=
  toBits_injective (by rw [toBits_rotl, List.rotate_zero])

theorem rotl_width (x : BitVec n) : rotl x n = x := by
  rw [← rotl_mod, Nat.mod_self, rotl_zero]

theorem count_toBits_rotl (x : BitVec n) (s : Nat) : (toBits (rotl x s)).count true = (toBits x).count true := by
  rw [toBits_rotl]
  exact (List.rotate_perm _ s).count_eq true

/-- The first `s` bits of a register are the quotient of its value by the weight of the others, which are the
remainder. -/
theorem val_take_drop_toBits (x : BitVec n) (s : Nat) :
    val ((toBits x).take s) = x.toNat / 2 ^ (n - s) ∧ val ((toBits x).drop s) = x.toNat % 2 ^ (n - s) := by
  have length : ((toBits x).drop s).length = n - s := by simp
  have low_lt : val ((toBits x).drop s) < 2 ^ (n - s) := length ▸ val_lt _
  have split : val ((toBits x).take s) * 2 ^ (n - s) + val ((toBits x).drop s) = x.toNat := by
    rw [← length, ← val_append, List.take_append_drop, val_toBits]
  rw [← split, Nat.mul_comm, Nat.mul_add_div (Nat.two_pow_pos _), Nat.div_eq_of_lt low_lt, Nat.mul_add_mod,
    Nat.mod_eq_of_lt low_lt]
  exact ⟨rfl, rfl⟩

theorem toNat_rotl (x : BitVec n) {s : Nat} (h : s ≤ n) :
    (rotl x s).toNat = x.toNat * 2 ^ s % 2 ^ n + x.toNat / 2 ^ (n - s) := by
  obtain ⟨high, low⟩ := val_take_drop_toBits x s
  have length : ((toBits x).take s).length = s := by simpa using h
  have weight : 2 ^ n = 2 ^ (n - s) * 2 ^ s := by rw [← Nat.pow_add, Nat.sub_add_cancel h]
  rw [← val_toBits (rotl x s), toBits_rotl_of_le x h, val_append, length, low, high, weight, Nat.mul_mod_mul_right]

/-- A register of equal bits is unchanged by every rotation (R139). -/
theorem rotl_of_uniform {x : BitVec n} (h : x = 0 ∨ x = BitVec.allOnes n) (s : Nat) : rotl x s = x := by
  refine eq_of_bitAt fun p h1 hn => ?_
  have inside : p - 1 < n := by omega
  rw [bitAt_rotl x s h1 hn]
  obtain rfl | rfl := h
  · simp [bitAt]
  · simp [bitAt, inside, Nat.mod_lt _ (Nat.zero_lt_of_lt inside)]

end

/-- Settles O24, through rotation of the sequence; positions and value are the lemmas above. -/
theorem rotlLaws : Obligations.RotlLaws :=
  ⟨fun _ s _ x _ h1 hn => bitAt_rotl x s h1 hn, fun _ _ x h => toBits_rotl_of_le x h, fun _ x h => toNat_rotl x h,
    fun _ a b x _ _ => (rotl_rotl x a b).trans (rotl_mod x (a + b)).symm, fun _ x => rotl_width x,
    fun _ s x _ => count_toBits_rotl x s⟩

/-! ### The halves and the round keys (R135, R136) -/

theorem sum_take_tableShift_succ (n : Nat) :
    (tableShift.take (n + 1)).sum = (tableShift.take n).sum + shiftCount n := by
  rw [List.take_add_one, List.sum_append, shiftCount, List.getD]
  cases tableShift[n]? <;> simp

/-- The halves after `n` rounds are the PC-1 halves rotated by the first `n` counts together. -/
theorem halvesAfter_eq_rotl (k : KeyWord) (n : Nat) : halvesAfter k n =
    (rotl (pc1Split k).1 (tableShift.take n).sum, rotl (pc1Split k).2 (tableShift.take n).sum) := by
  induction n with
  | zero => simp [halvesAfter, rotl_zero]
  | succ n ih => rw [halvesAfter, ih, ksAdvance, ksRotate, ksRotate, rotl_rotl, rotl_rotl, sum_take_tableShift_succ]

/-- The counts are a full turn together. -/
theorem sum_tableShift : (tableShift.take 16).sum = 28 := by decide

theorem halvesAfter_sixteen (k : KeyWord) : halvesAfter k 16 = pc1Split k := by
  rw [halvesAfter_eq_rotl, sum_tableShift, rotl_width, rotl_width]

/-- Settles O28: an induction on the rounds that adds up the counts, whose sum is a full turn. -/
theorem cumulativeRotation : Obligations.CumulativeRotation := by
  intro k
  refine ⟨fun n _ => halvesAfter_eq_rotl k n, fun n h1 h16 => ?_, by decide, halvesAfter_sixteen k⟩
  rw [getElem?_ks k (n - 1) (by omega), keyOf, Nat.sub_add_cancel h1, pc2Key]

theorem halvesAfter_congr {k k' : KeyWord} (h : pc1Split k = pc1Split k') (n : Nat) :
    halvesAfter k n = halvesAfter k' n := by
  rw [halvesAfter_eq_rotl, halvesAfter_eq_rotl, h]

/-- The schedule reads the key through PC-1 only. -/
theorem ks_congr {k k' : KeyWord} (h : pc1Split k = pc1Split k') : ks k = ks k' := by
  refine roundKeys_ext fun i hi => ?_
  rw [getElem?_ks k i hi, getElem?_ks k' i hi, keyOf, keyOf, halvesAfter_congr h]

/-! ### Parity bits (R131) -/

/-- PC-1 selects no parity bit (41_tables.md R115). -/
theorem tablePC1_no_parity : ∀ q ∈ tablePC1, q % 8 ≠ 0 := by decide

theorem pc1Split_congr {k k' : KeyWord} (h : ∀ p, 1 ≤ p → p ≤ 64 → p % 8 ≠ 0 → bitAt k p = bitAt k' p) :
    pc1Split k = pc1Split k' := by
  obtain ⟨-, -, -, -, okPC1, -⟩ := tables_ok
  obtain ⟨-, entries⟩ := tableOk_iff.1 okPC1
  have selected : tablePC1.map (bitAt k) = tablePC1.map (bitAt k') :=
    List.map_congr_left fun q hq => h q (entries q hq).1 (entries q hq).2 (tablePC1_no_parity q hq)
  simp only [pc1Split, permute, selected]

/-- Settles O27: PC-1 drops the parity bits, and the schedule sees nothing else of the key. -/
theorem parityIndependence : Obligations.ParityIndependence := by
  intro k k' h
  have sameKeys : ks k = ks k' := ks_congr (pc1Split_congr h)
  exact ⟨sameKeys, fun dir x => by rw [sameKeys]⟩

/-! ### Degenerate keys (R139) -/

/-- Two orders that use the same round key in every round are the same cipher. -/
theorem afterRounds_congr {rk rk' : RoundKeys} {dir dir' : Bool} (lr : Half × Half) {n : Nat}
    (h : ∀ i, i < n → roundKeyAt rk dir i = roundKeyAt rk' dir' i) :
    afterRounds rk dir lr n = afterRounds rk' dir' lr n := by
  induction n with
  | zero => rfl
  | succ n ih => rw [afterRounds, afterRounds, ih fun i hi => h i (Nat.lt_succ_of_lt hi), h n (Nat.lt_succ_self n)]

theorem blockCipher_congr {rk rk' : RoundKeys} {dir dir' : Bool}
    (h : ∀ i, i < 16 → roundKeyAt rk dir i = roundKeyAt rk' dir' i) (x : BlockWord) :
    blockCipher rk dir x = blockCipher rk' dir' x :=
  congrArg blockOutput (afterRounds_congr (loadedHalves x) h)

theorem roundKeyIndex_lt {i : Nat} (dir : Bool) (h : i < 16) : roundKeyIndex dir i < 16 := by
  cases dir <;> simp [roundKeyIndex] <;> omega

theorem roundKeyAt_ks (k : KeyWord) (dir : Bool) {i : Nat} (h : i < 16) :
    roundKeyAt (ks k) dir i = keyOf k (roundKeyIndex dir i) := by
  rw [roundKeyAt, getElem?_ks k _ (roundKeyIndex_lt dir h), Option.getD_some]

section
variable {k : KeyWord} (hc : (pc1Split k).1 = 0 ∨ (pc1Split k).1 = BitVec.allOnes 28)
  (hd : (pc1Split k).2 = 0 ∨ (pc1Split k).2 = BitVec.allOnes 28)
include hc hd

theorem halvesAfter_of_uniform (n : Nat) : halvesAfter k n = pc1Split k := by
  rw [halvesAfter_eq_rotl, rotl_of_uniform hc, rotl_of_uniform hd]

theorem keyOf_of_uniform (i : Nat) : keyOf k i = keyOf k 0 := by
  rw [keyOf, keyOf, halvesAfter_of_uniform hc hd, halvesAfter_of_uniform hc hd]

theorem blockCipher_of_uniform (dir dir' : Bool) (x : BlockWord) :
    blockCipher (ks k) dir x = blockCipher (ks k) dir' x := by
  refine blockCipher_congr (fun i hi => ?_) x
  rw [roundKeyAt_ks k dir hi, roundKeyAt_ks k dir' hi]
  exact (keyOf_of_uniform hc hd _).trans (keyOf_of_uniform hc hd _).symm

end

/-- The halves of the four keys R139 lists. -/
theorem pc1Split_listed :
    pc1Split 0x0101010101010101#64 = (0, 0) ∧
    pc1Split 0xFEFEFEFEFEFEFEFE#64 = (BitVec.allOnes 28, BitVec.allOnes 28) ∧
    pc1Split 0xE0E0E0E0F1F1F1F1#64 = (BitVec.allOnes 28, 0) ∧
    pc1Split 0x1F1F1F1F0E0E0E0E#64 = (0, BitVec.allOnes 28) := by decide +kernel

/-- Settles O29: every rotation leaves the halves, so every round has the first round's key. -/
theorem degenerateKeys : Obligations.DegenerateKeys := by
  refine ⟨fun k hc hd => ⟨fun i hi => ?_, blockCipher_of_uniform hc hd false true⟩, fun k hk => ?_⟩
  · rw [getElem?_ks k i hi, getElem?_ks k 0 (by omega), keyOf_of_uniform hc hd]
  · obtain ⟨zeros, ones, onesZeros, zerosOnes⟩ := pc1Split_listed
    simp only [List.mem_cons, List.not_mem_nil, or_false] at hk
    obtain rfl | rfl | rfl | rfl := hk
    · rw [zeros]; exact ⟨.inl rfl, .inl rfl⟩
    · rw [ones]; exact ⟨.inr rfl, .inr rfl⟩
    · rw [onesZeros]; exact ⟨.inr rfl, .inl rfl⟩
    · rw [zerosOnes]; exact ⟨.inl rfl, .inr rfl⟩

/-! ### From BLK_LOAD to FINISH (R138) -/

/-- The registers of the key schedule are the same in two states. -/
structure SameSchedule (s t : State) : Prop where
  rk : t.rk = s.rk
  c : t.c = s.c
  d : t.d = s.d
  key : t.key = s.key

/-- Only KEYCHK, KS_PC1 and KS_ROUND write a register of the key schedule. -/
theorem sameSchedule_of_exec {i : Instr} {s t : State} (h : exec i s = .next t) (keychk : i ≠ .keychk)
    (ksPc1 : i ≠ .ksPc1) (ksRound : i ≠ .ksRound) : SameSchedule s t := by
  obtain ⟨writesKey, writesHalves, writesKeys, -⟩ := registerWriters i s t h
  have halves : ¬(t.c ≠ s.c ∨ t.d ≠ s.d) := fun hw => (writesHalves hw).elim ksPc1 ksRound
  obtain ⟨c, d⟩ := not_or.1 halves
  exact ⟨of_not_not fun hw => ksRound (writesKeys hw), of_not_not c, of_not_not d,
    of_not_not fun hw => keychk (writesKey hw)⟩

/-- A micro-operation from BLK_LOAD on is none of those three. -/
theorem sameSchedule_of_uop {i : Instr} {s t : State} {q : List HostAct} (h5 : 5 ≤ s.phase.toNat)
    (hd : decodeUop s.phase = .ok i) (h : exec i { s with hostq := q } = .next t) : SameSchedule s t := by
  have phase : encode i = .uop s.phase := encode_of_decodeUop hd
  have other {j : Instr} {c : BitVec 4} (hj : encode j = .uop c) (hc : c.toNat < 5) : i ≠ j := by
    rintro rfl
    have early : s.phase = c := Code.uop.inj (phase.symm.trans hj)
    rw [early] at h5
    omega
  obtain ⟨rk, c, d, key⟩ := sameSchedule_of_exec h (other (j := .keychk) rfl (by decide))
    (other (j := .ksPc1) rfl (by decide)) (other (j := .ksRound) rfl (by decide))
  exact ⟨rk, c, d, key⟩

/-- Settles O49, by what a step can do: the engine's turn is past the schedule, a START waits for BUSY = 0, and a host
access touches no register of the datapath. -/
theorem keysFixedDuringBlocks : Obligations.KeysFixedDuringBlocks := by
  intro s t h5 _ hb noReset h
  suffices same : SameSchedule s t from ⟨same.rk, same.c, same.d, same.key⟩
  obtain ⟨q, i, -, hd, he⟩ | ⟨q, w, -, rfl⟩ | ⟨q, r, -, rfl⟩ | ⟨q, a, -, rfl⟩ | ⟨q, n, -, rfl⟩ | ⟨q, n, -, rfl⟩ |
    ⟨q, a, v, -, -, rfl⟩ | ⟨q, a, v, -, -, rfl⟩ | ⟨q, hq, -⟩ := step_cases h
  · exact sameSchedule_of_uop h5 hd he
  · rw [start_of_busy (s := { s with hostq := q }) hb]
    exact ⟨rfl, rfl, rfl, rfl⟩
  · constructor <;> simp
  · constructor <;> simp
  · constructor <;> simp
  · constructor <;> simp
  · exact ⟨rfl, rfl, rfl, rfl⟩
  · exact ⟨rfl, rfl, rfl, rfl⟩
  · exact absurd (congrArg List.head? hq) noReset

end Sys2Proof.Machine
end

section
/-! PROOF. The Feistel round processor (43_feistel_round.md): each stage position by position (R151 to R154), and the
round as an involution followed by a swap (R158). -/

namespace Sys2Proof.Machine

/-! ### Expansion, key mix and P-box (R151, R152, R154) -/

/-- Entry `j` of group `g` of E is position `4g + j - 1`, counted cyclically in `1..32` (R151). -/
theorem tableE_cyclic : ∀ g, g < 8 → ∀ j, j < 7 → 1 ≤ j →
    tableE.getD (6 * g + j - 1) 0 = (4 * g + j + 30) % 32 + 1 := by decide

theorem bitAt_expand (r : Half) {g j : Nat} (hg : g < 8) (h1 : 1 ≤ j) (h6 : j ≤ 6) :
    bitAt (expand r) (6 * g + j) = bitAt r ((4 * g + j + 30) % 32 + 1) := by
  obtain ⟨-, -, lengthE, -⟩ := table_lengths
  rw [expand, bitAt_permute lengthE r (by omega) (by omega), tableE_cyclic g hg j (Nat.lt_succ_of_le h6) h1]

theorem bitAt_xor {n : Nat} (x y : BitVec n) (p : Nat) : bitAt (x ^^^ y) p = (bitAt x p ^^ bitAt y p) :=
  BitVec.getMsbD_xor

theorem toNat_bitAt_keyMix (x : BitVec 48) (k : RoundKey) (p : Nat) :
    (bitAt (keyMix x k) p).toNat = ((bitAt x p).toNat + (bitAt k p).toNat) % 2 := by
  rw [keyMix, bitAt_xor]
  cases bitAt x p <;> cases bitAt k p <;> rfl

theorem bitAt_pbox (y : Half) {p : Nat} (h1 : 1 ≤ p) (h32 : p ≤ 32) :
    bitAt (pbox y) p = bitAt y (tableP.getD (p - 1) 0) := by
  obtain ⟨-, -, -, lengthP, -⟩ := table_lengths
  exact bitAt_permute lengthP y h1 h32

/-! ### Substitution (R153) -/

/-- In pieces of one length `c` laid end to end, place `c * g + j` is place `j` of piece `g`. -/
theorem getD_flatMap_range {α : Type} {f : Nat → List α} {c : Nat} (length : ∀ i, (f i).length = c) (d : α)
    {n g j : Nat} (hg : g < n) (hj : j < c) : ((List.range n).flatMap f).getD (c * g + j) d = (f g).getD j d := by
  induction n with
  | zero => exact absurd hg (Nat.not_lt_zero g)
  | succ n ih =>
    have front : ((List.range n).flatMap f).length = c * n := by simp [length, Nat.mul_comm]
    rw [List.range_succ, List.flatMap_append, List.flatMap_singleton]
    obtain earlier | rfl := Nat.lt_succ_iff_lt_or_eq.1 hg
    · have inside : c * g + j < c * n := calc
        c * g + j < c * (g + 1) := Nat.add_lt_add_left hj _
        _ ≤ c * n := Nat.mul_le_mul_left c earlier
      rw [List.getD_append _ _ _ _ (front ▸ inside), ih earlier]
    · rw [List.getD_append_right _ _ _ _ (front ▸ Nat.le_add_right _ j), front, Nat.add_sub_cancel_left]

/-- The four output bits of group `g` are the bits of its ROM entry. -/
theorem bitAt_subst (x : BitVec 48) {g j : Nat} (hg : g < 8) (h1 : 1 ≤ j) (h4 : j ≤ 4) :
    bitAt (subst x) (4 * g + j) = bitAt (romRead (sboxAddr x g)) j := by
  have length (i : Nat) : (toBits (romRead (sboxAddr x i))).length = 4 := length_toBits _
  rw [subst, bitAt_ofBits (by simp), Nat.add_sub_assoc h1, getD_flatMap_range length false hg (by omega), getD_toBits,
    bitAt]

/-- The ROM entry of group `g` is `S[g][row][col]`. -/
theorem romRead_sboxAddr {x : BitVec 48} {g row col : Nat} (hg : g < 8)
    (hrow : row = 2 * (bitAt x (6 * g + 1)).toNat + (bitAt x (6 * g + 6)).toNat)
    (hcol : col = 8 * (bitAt x (6 * g + 2)).toNat + 4 * (bitAt x (6 * g + 3)).toNat +
      2 * (bitAt x (6 * g + 4)).toNat + (bitAt x (6 * g + 5)).toNat) :
    romRead (sboxAddr x g) = sbox g row col := by
  obtain ⟨row_lt, col_lt, -⟩ := sboxAddr_in_range hg hrow hcol
  rw [← romRead_address hg row_lt col_lt, hrow, hcol]
  rfl

/-- Settles O30, stage by stage: the tables give E and P, and row and column of a group are its address in the ROM. -/
theorem feistelStages : Obligations.FeistelStages := by
  refine ⟨fun r _ _ hg h1 h6 => bitAt_expand r hg h1 h6, fun x k p _ _ => toNat_bitAt_keyMix x k p,
    fun x g j row col hg h1 h4 hrow hcol => ?_, fun y _ h1 h32 => bitAt_pbox y h1 h32⟩
  rw [bitAt_subst x hg h1 h4, romRead_sboxAddr hg hrow hcol]

/-! ### The round undone (R158) -/

theorem lmix_lmix (l z : Half) : lmix (lmix l z) z = l := by
  rw [lmix, lmix, BitVec.xor_assoc, BitVec.xor_self, BitVec.xor_zero]

/-- A round followed by a swap undoes itself: it leaves R, so both times it mixes the same `F(R, K)` into L. -/
theorem swap_roundPair_involutive (k : RoundKey) : Function.Involutive fun lr => (roundPair lr k).swap := by
  rintro ⟨l, r⟩
  exact congrArg (·, r) (lmix_lmix l (feistelF r k))

theorem roundPair_bijective (k : RoundKey) : Function.Bijective fun lr => roundPair lr k :=
  (Function.Bijective.of_comp_iff' Prod.swap_bijective _).1 (swap_roundPair_involutive k).bijective

/-- Settles O31: the swap is a bijection and so is a round followed by it, hence the round. -/
theorem roundInvertible : Obligations.RoundInvertible := fun k =>
  ⟨roundPair_bijective k, fun l r => ⟨rfl, (lmix_lmix l (feistelF r k)).symm⟩,
    fun l r => swap_roundPair_involutive k (l, r)⟩

end Sys2Proof.Machine
end

section
/-! PROOF. The data invariant (44_block_controller.md R188), micro-operation by micro-operation: each turns what the
invariant says of its own phase into what it says of the next. -/

namespace Sys2Proof.Machine

section
variable {s t : State} {p : BitVec 4}

/-- The data invariant of a state in phase `p`, from what it says of that phase; what it says of other phases is
vacuous. -/
theorem dataInv_of_phase (phase : s.phase = p)
    (key : 2 ≤ p.toNat → s.key = keyWord s := by exact (absurd · (by decide)))
    (schedule : p = phaseKsRound → (s.c, s.d) = halvesAfter s.key s.i.toNat ∧
      ∀ j, j < s.i.toNat → s.rk[j]? = some (keyOf s.key j) := by exact (absurd · (by decide)))
    (keys : 5 ≤ p.toNat → s.rk = ks s.key := by exact (absurd · (by decide)))
    (rounds : p = phaseBlkRound ∨ p = phaseBlkStore →
      (s.l, s.r) = afterRounds s.rk s.dir (loadedHalves (textBlock s s.b)) s.i.toNat := by
        exact (absurd · (by decide)))
    (stored : 5 ≤ p.toNat ∧ p.toNat ≤ 7 →
      ∀ j, j < s.b → outBlock s j = blockCipher s.rk s.dir (textBlock s j) := by exact (absurd · (by decide)))
    (storedAll : 8 ≤ p.toNat →
      ∀ j, j < s.nblk → outBlock s j = blockCipher s.rk s.dir (textBlock s j) := by exact (absurd · (by decide))) :
    DataInv s := by
  subst phase
  exact ⟨key, schedule, keys, rounds, fun h5 h7 => stored ⟨h5, h7⟩, storedAll⟩

/-- Before LENCHK the data invariant says nothing. -/
theorem dataInv_idle (phase : s.phase = phaseIdle) : DataInv s := dataInv_of_phase phase

theorem dataInv_raise (e : ErrorKind) (s : State) : DataInv (raise e s) := dataInv_idle rfl

theorem dataInv_startRun (w : BitVec 2) (s : State) : DataInv (startRun w s) :=
  dataInv_of_phase (p := phaseKeychk) rfl

/-- After the last block the data invariant is the same at STRIP and at FINISH. -/
theorem dataInv_afterBlocks (phase : t.phase = phaseAfterBlocks t) (key : t.key = keyWord t) (keys : t.rk = ks t.key)
    (storedAll : ∀ j, j < t.nblk → outBlock t j = blockCipher t.rk t.dir (textBlock t j)) : DataInv t := by
  unfold phaseAfterBlocks at phase
  split at phase
  · exact dataInv_of_phase phase (key := fun _ => key) (keys := fun _ => keys) (storedAll := fun _ => storedAll)
  · exact dataInv_of_phase phase (key := fun _ => key) (keys := fun _ => keys) (storedAll := fun _ => storedAll)

/-! ### The key schedule -/

theorem dataInv_after_keychk (he : exec .keychk s = .next t) : DataInv t := by
  obtain ⟨-, rfl⟩ | ⟨-, rfl⟩ := exec_keychk_cases he
  · exact dataInv_raise _ s
  · exact dataInv_of_phase (p := phaseLenchk) rfl (key := fun _ => rfl)

theorem dataInv_after_lenchk (key : s.key = keyWord s) (he : exec .lenchk s = .next t) : DataInv t := by
  obtain ⟨-, rfl⟩ | ⟨-, rfl⟩ := exec_lenchk_cases he
  · exact dataInv_raise _ s
  · exact dataInv_of_phase (p := phaseKsPc1) rfl (key := fun _ => key)

theorem dataInv_after_ksPc1 (key : s.key = keyWord s) (he : exec .ksPc1 s = .next t) : DataInv t := by
  obtain rfl := eq_of_exec_ksPc1 he
  exact dataInv_of_phase (p := phaseKsRound) rfl (key := fun _ => key)
    (schedule := fun _ => ⟨rfl, fun j hj => absurd hj (Nat.not_lt_zero j)⟩)

/-- KS_ROUND advances the halves (42_key_schedule.md R134, R135). -/
theorem ksRoundStep_halves (halves : (s.c, s.d) = halvesAfter s.key s.i.toNat) :
    ((ksRoundStep s).c, (ksRoundStep s).d) = halvesAfter s.key (s.i.toNat + 1) := by
  rw [halvesAfter, ← halves]
  rfl

/-- KS_ROUND makes round key I of the schedule and keeps the ones before it. -/
theorem ksRoundStep_schedule (halves : (s.c, s.d) = halvesAfter s.key s.i.toNat) (index : s.i.toNat < 16)
    (made : ∀ j, j < s.i.toNat → s.rk[j]? = some (keyOf s.key j)) {j : Nat} (hj : j < s.i.toNat + 1) :
    (ksRoundStep s).rk[j]? = some (keyOf s.key j) := by
  obtain ⟨hc, hd⟩ := Prod.ext_iff.1 (ksRoundStep_halves halves)
  rw [ksRoundStep_rk, Vector.getElem?_setIfInBounds]
  by_cases newest : s.i.toNat = j
  · subst newest
    rw [if_pos rfl, if_pos index, keyOf, ← hc, ← hd]
    rfl
  · rw [if_neg newest]
    exact made j (by omega)

theorem dataInv_after_ksRound (key : s.key = keyWord s) (phase : s.phase = phaseKsRound)
    (schedule : (s.c, s.d) = halvesAfter s.key s.i.toNat ∧ ∀ j, j < s.i.toNat → s.rk[j]? = some (keyOf s.key j))
    (he : exec .ksRound s = .next t) : DataInv t := by
  obtain ⟨hi, rfl⟩ := eq_of_exec_ksRound he
  obtain ⟨halves, made⟩ := schedule
  by_cases last : s.i.toNat + 1 = Config.nRounds
  · have h16 : s.i.toNat + 1 = 16 := last
    have keys : (ksRoundStep s).rk = ks s.key := roundKeys_ext fun j hj => by
      rw [ksRoundStep_schedule halves hi made (by omega), getElem?_ks s.key j hj]
    have next : (ksRoundStep s).phase = phaseAfterKeys s := by simp [last]
    rw [phaseAfterKeys] at next
    split at next
    case isTrue =>
      have hb : (ksRoundStep s).b = 0 := by simp [last]
      exact dataInv_of_phase next (key := fun _ => key) (keys := fun _ => keys)
        (stored := fun _ j hj => absurd hj (hb ▸ Nat.not_lt_zero j))
    case isFalse empty =>
      exact dataInv_afterBlocks next key keys fun j hj => absurd (Nat.zero_lt_of_lt hj) empty
  · have next : (ksRoundStep s).phase = phaseKsRound := by simpa [last] using phase
    have hi' : (ksRoundStep s).i.toNat = s.i.toNat + 1 := toNat_index_succ s.i hi
    refine dataInv_of_phase next (key := fun _ => key) (schedule := fun _ => ?_)
    rw [hi']
    exact ⟨ksRoundStep_halves halves, fun j hj => ksRoundStep_schedule halves hi made hj⟩

/-! ### The blocks -/

/-- What the data invariant says in all three phases of a block. -/
theorem DataInv.inBlocks (h : DataInv s) (phase : s.phase = p) (hp : 5 ≤ p.toNat ∧ p.toNat ≤ 7 := by decide) :
    s.key = keyWord s ∧ s.rk = ks s.key ∧
      ∀ j, j < s.b → outBlock s j = blockCipher s.rk s.dir (textBlock s j) := by
  subst phase
  obtain ⟨h5, h7⟩ := hp
  exact ⟨h.key (by omega), h.keys h5, h.stored h5 h7⟩

theorem dataInv_after_blkLoad (h : DataInv s) (phase : s.phase = phaseBlkLoad) (he : exec .blkLoad s = .next t) :
    DataInv t := by
  obtain ⟨key, keys, stored⟩ := h.inBlocks phase
  obtain rfl := eq_of_exec_blkLoad he
  exact dataInv_of_phase (p := phaseBlkRound) rfl (key := fun _ => key) (keys := fun _ => keys)
    (rounds := fun _ => rfl) (stored := fun _ => stored)

/-- BLK_ROUND is one more round of the block (44_block_controller.md R177 step c, R185). -/
theorem blkRoundStep_halves {lr : Half × Half} (halves : (s.l, s.r) = afterRounds s.rk s.dir lr s.i.toNat) :
    ((blkRoundStep s).l, (blkRoundStep s).r) = afterRounds s.rk s.dir lr (s.i.toNat + 1) := by
  rw [afterRounds, ← halves]
  rfl

theorem dataInv_after_blkRound (h : DataInv s) (phase : s.phase = phaseBlkRound) (he : exec .blkRound s = .next t) :
    DataInv t := by
  obtain ⟨hi, rfl⟩ := eq_of_exec_blkRound he
  have hi' : (blkRoundStep s).i.toNat = s.i.toNat + 1 := toNat_index_succ s.i hi
  have rounds : ((blkRoundStep s).l, (blkRoundStep s).r) =
      afterRounds s.rk s.dir (loadedHalves (textBlock s s.b)) (blkRoundStep s).i.toNat :=
    hi' ▸ blkRoundStep_halves (h.rounds (.inl phase))
  obtain ⟨key, keys, stored⟩ := h.inBlocks phase
  by_cases last : s.i.toNat + 1 = Config.nRounds
  · have next : (blkRoundStep s).phase = phaseBlkStore := by simp [last]
    exact dataInv_of_phase next (key := fun _ => key) (keys := fun _ => keys) (rounds := fun _ => rounds)
      (stored := fun _ => stored)
  · have next : (blkRoundStep s).phase = phaseBlkRound := by simpa [last] using phase
    exact dataInv_of_phase next (key := fun _ => key) (keys := fun _ => keys) (rounds := fun _ => rounds)
      (stored := fun _ => stored)

/-- The bytes of a multi-byte write are read back through the byte view. -/
theorem readBytes_writeBytes {m : Memory} {vs : List Byte} {a n : Nat} {sp : Space} :
    readBytes (byteOr (Memory.writeBytes m a vs) n sp) a vs.length = vs := by
  refine List.ext_getElem (length_readBytes _ _ _) fun k _ hk => ?_
  simp only [readBytes, List.getElem_map, List.getElem_range]
  exact byteOr_writeBytes_mem hk

/-- The block BLK_STORE writes is the output of the halves (R177 step d, R186). -/
theorem outBlock_blkStore_same (out : t.outbuf = Memory.writeBytes s.outbuf (8 * s.b) (storedBytes s)) :
    outBlock t s.b = blockOutput (s.l, s.r) := by
  have bytes : readBytes (outByte t) (8 * s.b) 8 = storedBytes s := by
    have view : outByte t = byteOr (Memory.writeBytes s.outbuf (8 * s.b) (storedBytes s)) t.resets .outbuf := by
      rw [← out]
      rfl
    rw [view, ← length_storedBytes s]
    exact readBytes_writeBytes
  rw [outBlock, bytes]
  exact wordOfBytes_bytesOfWord _

/-- BLK_STORE keeps the blocks before its own. -/
theorem outBlock_blkStore_before (out : t.outbuf = Memory.writeBytes s.outbuf (8 * s.b) (storedBytes s))
    (resets : t.resets = s.resets) {j : Nat} (hj : j < s.b) : outBlock t j = outBlock s j := by
  refine congrArg wordOfBytes (readBytes_congr fun k hk => ?_)
  rw [outByte, outByte, out, resets]
  exact byteOr_writeBytes_out (by omega)

theorem dataInv_after_blkStore (h : DataInv s) (phase : s.phase = phaseBlkStore) (index : s.i.toNat = 16)
    (he : exec .blkStore s = .next t) : DataInv t := by
  have ht := eq_of_exec_blkStore he
  have halves := h.rounds (.inr phase)
  obtain ⟨key, keys, before⟩ := h.inBlocks phase
  have stored : ∀ j, j < s.b + 1 → outBlock t j = blockCipher s.rk s.dir (textBlock s j) := by
    intro j hj
    obtain earlier | rfl := Nat.lt_succ_iff_lt_or_eq.1 hj
    · rw [outBlock_blkStore_before (by rw [ht]) (by rw [ht]) earlier]
      exact before j earlier
    · rw [outBlock_blkStore_same (by rw [ht]), halves, index]
      rfl
  subst ht
  by_cases last : s.b + 1 = s.nblk
  · exact dataInv_afterBlocks (if_pos last) key keys fun j hj => stored j (last ▸ hj)
  · exact dataInv_of_phase (p := phaseBlkLoad) (if_neg last) (key := fun _ => key) (keys := fun _ => keys)
      (stored := fun _ => stored)

theorem dataInv_after_strip (h : DataInv s) (phase : s.phase = phaseStrip) (he : exec .strip s = .next t) :
    DataInv t := by
  obtain ⟨-, rfl⟩ | ⟨-, rfl⟩ := exec_strip_cases he
  · exact dataInv_raise _ s
  · exact dataInv_of_phase (p := phaseFinish) rfl (key := fun _ => h.key (by rw [phase]; decide))
      (keys := fun _ => h.keys (by rw [phase]; decide)) (storedAll := fun _ => h.storedAll (by rw [phase]; decide))

/-! ### The whole invariant -/

/-- The micro-operation of the phase keeps the data invariant, at every control point. -/
theorem DataInv.exec {i : Instr} (h : DataInv s) (point : ControlPoint s) (hd : decodeUop s.phase = .ok i)
    (he : exec i s = .next t) : DataInv t := by
  cases point with
  | idle phase =>
    obtain rfl := instr_of_phase hd phase rfl
    exact eq_of_exec_idle he ▸ h
  | keychk run =>
    obtain rfl := instr_of_phase hd run.phase rfl
    exact dataInv_after_keychk he
  | lenchk run =>
    obtain rfl := instr_of_phase hd run.phase rfl
    exact dataInv_after_lenchk (h.key (by rw [run.phase]; decide)) he
  | ksPc1 run =>
    obtain rfl := instr_of_phase hd run.phase rfl
    exact dataInv_after_ksPc1 (h.key (by rw [run.phase]; decide)) he
  | ksRound run =>
    obtain rfl := instr_of_phase hd run.phase rfl
    exact dataInv_after_ksRound (h.key (by rw [run.phase]; decide)) run.phase (h.schedule run.phase) he
  | blkLoad run =>
    obtain rfl := instr_of_phase hd run.phase rfl
    exact dataInv_after_blkLoad h run.phase he
  | blkRound run =>
    obtain rfl := instr_of_phase hd run.phase rfl
    exact dataInv_after_blkRound h run.phase he
  | blkStore run _ _ _ index =>
    obtain rfl := instr_of_phase hd run.phase rfl
    exact dataInv_after_blkStore h run.phase index he
  | strip run =>
    obtain rfl := instr_of_phase hd run.phase rfl
    exact dataInv_after_strip h run.phase he
  | finish run =>
    obtain rfl := instr_of_phase hd run.phase rfl
    obtain rfl := eq_of_exec_finish he
    exact dataInv_idle rfl

/-- The data invariant does not depend on the host's own fields. -/
theorem DataInv.congr_host (h : DataInv s) (q : List HostAct) (rd : Option Nat) (n : Nat) :
    DataInv { s with hostq := q, rdata := rd, draws := n } := { h with }

theorem DataInv.start (h : DataInv s) (w : BitVec 2) : DataInv (start w s) := by
  cases hb : s.busy with
  | true => rwa [start_of_busy hb]
  | false => rw [start_of_idle hb]; exact dataInv_startRun w s

theorem DataInv.readReg (h : DataInv s) (r : HostReg) : DataInv (readReg r s) := by
  cases r <;> exact h.congr_host _ _ _

theorem DataInv.readOut (h : DataInv s) (a : Nat) : DataInv (readOut a s) := by
  unfold Machine.readOut
  split <;> exact h.congr_host _ _ _

/-- With BUSY = 0 the data invariant says nothing, so the operands may change. -/
theorem DataInv.writeKlen (h : DataInv s) (idle : s.busy = false → s.phase = phaseIdle) (n : Nat) :
    DataInv (writeKlen n s) := by
  cases hb : s.busy with
  | true => rwa [writeKlen_of_busy hb]
  | false => exact dataInv_idle (by simpa using idle hb)

theorem DataInv.writeDlen (h : DataInv s) (idle : s.busy = false → s.phase = phaseIdle) (n : Nat) :
    DataInv (writeDlen n s) := by
  cases hb : s.busy with
  | true => rwa [writeDlen_of_busy hb]
  | false => exact dataInv_idle (by simpa using idle hb)

end

/-- Settles O44, by what a step can do: the engine's turn goes from phase to phase, reads touch nothing the invariant
speaks of, and the operands are written in IDLE only, where it says nothing. -/
theorem stepKeepsDataInv : Obligations.StepKeepsDataInv := by
  intro s t inv h hs
  have atq (q : List HostAct) : DataInv { s with hostq := q } := h.congr_host q s.rdata s.draws
  have point (q : List HostAct) : ControlPoint { s with hostq := q } :=
    (inv.congr_host q s.rdata s.draws).controlPoint
  have idle (hb : s.busy = false) : s.phase = phaseIdle := by simpa [hb] using inv.busyIff
  obtain ⟨q, i, -, hd, he⟩ | ⟨q, w, -, rfl⟩ | ⟨q, r, -, rfl⟩ | ⟨q, a, -, rfl⟩ | ⟨q, n, -, rfl⟩ | ⟨q, n, -, rfl⟩ |
    ⟨q, a, v, -, hb, rfl⟩ | ⟨q, a, v, -, hb, rfl⟩ | ⟨q, -, rfl⟩ := step_cases hs
  · exact (atq q).exec (point q) hd he
  · exact (atq q).start w
  · exact (atq q).readReg r
  · exact (atq q).readOut a
  · exact (atq q).writeKlen idle n
  · exact (atq q).writeDlen idle n
  · exact dataInv_idle (idle hb)
  · exact dataInv_idle (idle hb)
  · exact dataInv_idle rfl

end Sys2Proof.Machine
end

section
/-! PROOF. What START and each micro-operation do (44_block_controller.md R171, R180 to R190): register contents
position by position, and nothing else changed. -/

namespace Sys2Proof.Machine

/-! ### Positions -/

/-- Bytes are what reading through their own indices gives. -/
theorem readBytes_getD {ys : List Byte} {n : Nat} (h : ys.length = n) : readBytes (fun k => ys.getD k 0) 0 n = ys :=
  List.ext_getElem (by simp [h]) fun k _ hk => by simp [readBytes, hk]

/-- Position `8k + j` of the word of eight bytes is bit `8 - j` of byte `k` (40_bitconverter.md R104). -/
theorem bitAt_wordOfBytes {ys : List Byte} (h : ys.length = 8) {k j : Nat} (hk : k < 8) (h1 : 1 ≤ j) (h8 : j ≤ 8) :
    bitAt (wordOfBytes ys) (8 * k + j) = (ys.getD k 0).getLsbD (8 - j) := by
  have byte : 0 + (8 * k + j - 1) / 8 = k := by omega
  have bit : 7 - (8 * k + j - 1) % 8 = 8 - j := by omega
  calc bitAt (wordOfBytes ys) (8 * k + j)
      = bitAt (wordOfBytes (readBytes (fun k => ys.getD k 0) 0 8)) (8 * k + j) := by rw [readBytes_getD h]
    _ = (ys.getD k 0).getLsbD (8 - j) := by
      rw [bitAt_wordOfBytes_readBytes _ _ _ (by omega) (by omega), byte, bit]

section
variable {m n p : Nat}

theorem bitAt_extract_hi (x : BitVec (m + n)) (h1 : 1 ≤ p) (hm : p ≤ m) : bitAt (x.extractLsb' n m) p = bitAt x p :=
  getMsbD_extract_hi x (p - 1) (by omega)

theorem bitAt_extract_lo (x : BitVec (m + n)) (h1 : 1 ≤ p) (hn : p ≤ n) :
    bitAt (x.extractLsb' 0 n) p = bitAt x (m + p) := by
  rw [bitAt, bitAt, getMsbD_extract_lo x (p - 1) (by omega), Nat.add_sub_assoc h1]

end

/-! ### START -/

section
variable {s t : State}

/-- Nothing but START takes the engine out of IDLE: its turn is no step there, and no other access goes to a phase. -/
theorem writeCmd_of_leaves_idle (phase : s.phase = phaseIdle) (h : step s = .next t) (leaves : t.phase ≠ phaseIdle) :
    ∃ w q, s.hostq = .writeCmd w :: q := by
  obtain ⟨q, i, -, hd, he⟩ | ⟨q, w, hq, -⟩ | ⟨q, r, -, rfl⟩ | ⟨q, a, -, rfl⟩ | ⟨q, n, -, rfl⟩ | ⟨q, n, -, rfl⟩ |
    ⟨q, a, v, -, -, rfl⟩ | ⟨q, a, v, -, -, rfl⟩ | ⟨q, -, rfl⟩ := step_cases h
  · obtain rfl := instr_of_phase hd phase rfl
    obtain rfl := eq_of_exec_idle he
    exact absurd phase leaves
  · exact ⟨w, q, hq⟩
  · exact absurd phase (by simpa using leaves)
  · exact absurd phase (by simpa using leaves)
  · exact absurd phase (by simpa using leaves)
  · exact absurd phase (by simpa using leaves)
  · exact absurd phase leaves
  · exact absurd phase leaves
  · exact absurd rfl leaves

end

/-- Settles O5: a command is START with its word, which BUSY guards, and IDLE is left by START only. -/
theorem startEffect : Obligations.StartEffect := by
  refine ⟨fun i w s hi hb => ?_, fun i w s hi hb => ?_, fun s => rfl,
    fun s t phase h leaves => writeCmd_of_leaves_idle phase h leaves⟩
  · rw [exec_of_encode_cmd hi, start_of_idle hb]
    exact ⟨startRun w s, rfl, rfl, rfl, startRun_busy w s, startRun_done w s, startRun_err w s, rfl⟩
  · rw [exec_of_encode_cmd hi, start_of_busy hb]

/-! ### The checks -/

/-- The abort writes STATUS, OLEN and PHASE (60_exceptions.md R216). -/
theorem raise_effect (e : ErrorKind) (s : State) : (raise e s).err = e.code ∧ (raise e s).busy = false ∧
    (raise e s).done = true ∧ raise e s = { s with status := (raise e s).status, olen := 0, phase := 0b0000#4 } :=
  ⟨raise_err e s, raise_busy e s, raise_done e s, rfl⟩

theorem bitAt_keyWord (s : State) {k j : Nat} (hk : k < 8) (h1 : 1 ≤ j) (h8 : j ≤ 8) :
    bitAt (keyWord s) (8 * k + j) = (keyByte s k).getLsbD (8 - j) := by
  have bytes : readBytes (keyByte s) 0 Config.keyBytes = readBytes (keyByte s) 0 8 := rfl
  rw [keyWord, bytes, bitAt_wordOfBytes (length_readBytes _ _ _) hk h1 h8, getD_readBytes _ _ _ _ hk, Nat.zero_add]

/-- Settles O6, by the key's length: the register takes the bytes most significant bit first, or the run aborts. -/
theorem keychkEffect : Obligations.KeychkEffect := fun s =>
  ⟨fun long => ⟨_, exec_keychk_of_long long, fun _ _ hk h1 h8 => bitAt_keyWord s hk h1 h8, rfl⟩,
    fun short => ⟨_, exec_keychk_of_short short, raise_effect .invalidKeyLength s⟩⟩

section
variable {s : State}

theorem exec_lenchk_of_whole (h : workingLength s % 8 = 0) :
    exec .lenchk s = .next (setLengths (workingLength s) s) := by
  obtain ⟨t, ht⟩ : ∃ t, exec .lenchk s = .next t := exec_next_of_index (by simp)
  obtain ⟨ragged, -⟩ | ⟨-, rfl⟩ := exec_lenchk_cases ht
  · exact absurd h ragged
  · exact ht

theorem exec_lenchk_of_ragged (h : workingLength s % 8 ≠ 0) : exec .lenchk s = .next (raise .unalignedData s) := by
  obtain ⟨t, ht⟩ : ∃ t, exec .lenchk s = .next t := exec_next_of_index (by simp)
  obtain ⟨-, rfl⟩ | ⟨whole, -⟩ := exec_lenchk_cases ht
  · exact ht
  · exact absurd whole h

end

/-- Settles O7, by the command and the length: the working length is whole or the run aborts. -/
theorem lenchkEffect : Obligations.LenchkEffect := by
  intro s
  refine ⟨fun pad dir => ?_, fun other whole => ?_, fun other ragged => ?_⟩
  · have work := workingLength_of_encp ⟨pad, dir⟩
    rw [exec_lenchk_of_whole (by omega), work]
    rfl
  · have work := workingLength_of_not_encp other
    rw [exec_lenchk_of_whole (work ▸ whole), work]
    rfl
  · have work := workingLength_of_not_encp other
    exact ⟨_, exec_lenchk_of_ragged (work ▸ ragged), raise_effect .unalignedData s⟩

/-! ### The key schedule -/

/-- C and D of PC-1, position by position (42_key_schedule.md R133). -/
theorem bitAt_pc1Split (k : KeyWord) {p : Nat} (h1 : 1 ≤ p) (h28 : p ≤ 28) :
    bitAt (pc1Split k).1 p = bitAt k (tablePC1.getD (p - 1) 0) ∧
      bitAt (pc1Split k).2 p = bitAt k (tablePC1.getD (28 + p - 1) 0) := by
  obtain ⟨-, -, -, -, lengthPC1, -⟩ := table_lengths
  constructor
  · exact (bitAt_extract_hi (m := 28) (n := 28) _ h1 h28).trans (bitAt_permute lengthPC1 k h1 (by omega))
  · exact (bitAt_extract_lo (m := 28) (n := 28) _ h1 h28).trans (bitAt_permute lengthPC1 k (by omega) (by omega))

/-- Settles O8: C and D are the two halves of PC-1's output. -/
theorem ksPc1Effect : Obligations.KsPc1Effect := fun s =>
  ⟨_, rfl, fun _ h1 h28 => bitAt_pc1Split s.key h1 h28, rfl⟩

/-- A round key is PC-2 of the two halves side by side (42_key_schedule.md R134). -/
theorem bitAt_pc2Key (c d : KeyHalf) {p : Nat} (h1 : 1 ≤ p) (h48 : p ≤ 48) : bitAt (pc2Key c d) p =
    if tablePC2.getD (p - 1) 0 ≤ 28 then bitAt c (tablePC2.getD (p - 1) 0)
    else bitAt d (tablePC2.getD (p - 1) 0 - 28) := by
  obtain ⟨-, -, -, -, -, okPC2⟩ := tables_ok
  rw [pc2Key, bitAt_permute (length_of_tableOk okPC2) _ h1 h48, bitAt_append _ _ _ (entry_of_tableOk okPC2 h1 h48).1]

theorem exec_ksRound_of_index {s : State} (h : s.i.toNat < 16) : exec .ksRound s = .next (ksRoundStep s) := if_pos h

theorem phaseAfterBlocks_eq (s : State) :
    phaseAfterBlocks s = if s.pad = true ∧ s.dir = true then 0b1000#4 else 0b1001#4 := by
  simp [phaseAfterBlocks, phaseStrip, phaseFinish]

theorem last_round_iff {i : Nat} : i = 15 ↔ i + 1 = Config.nRounds := Nat.succ_inj.symm

/-- Settles O9: rotation and PC-2 position by position, and the sixteenth round told from the others. -/
theorem ksRoundEffect : Obligations.KsRoundEffect := by
  rintro s _ _ rfl hi rfl
  have index : (ksRoundStep s).i.toNat = s.i.toNat + 1 := toNat_index_succ s.i hi
  refine ⟨_, exec_ksRound_of_index hi, fun p h1 h28 => ⟨bitAt_rotl s.c _ h1 h28, bitAt_rotl s.d _ h1 h28⟩,
    ⟨pc2Key (ksRoundStep s).c (ksRoundStep s).d, ?_, fun p h1 h48 => bitAt_pc2Key _ _ h1 h48⟩, fun j hj => ?_,
    index, ?_⟩
  · rw [ksRoundStep_rk, Vector.getElem?_setIfInBounds_self, if_pos hi]
    rfl
  · rw [ksRoundStep_rk, Vector.getElem?_setIfInBounds_ne (Ne.symm hj)]
  · rw [← phaseAfterBlocks_eq]
    simp only [last_round_iff]
    rfl

/-! ### The blocks -/

/-- L and R that BLK_LOAD makes are positions 1..32 and 33..64 of IP (44_block_controller.md R184). -/
theorem bitAt_loadedHalves (x : BlockWord) {p : Nat} (h1 : 1 ≤ p) (h64 : p ≤ 64) :
    (if p ≤ 32 then bitAt (loadedHalves x).1 p else bitAt (loadedHalves x).2 (p - 32)) =
      bitAt x (tableIP.getD (p - 1) 0) := by
  obtain ⟨lengthIP, -⟩ := table_lengths
  rw [← bitAt_permute lengthIP x h1 h64]
  by_cases left : p ≤ 32
  · rw [if_pos left]
    exact bitAt_extract_hi (m := 32) (n := 32) _ h1 left
  · rw [if_neg left]
    have right : p = 32 + (p - 32) := by omega
    conv_rhs => rw [right]
    exact bitAt_extract_lo (m := 32) (n := 32) _ (by omega) (by omega)

/-- Settles O10: IP names a position of the block, which is a bit of one of its eight bytes. -/
theorem blkLoadEffect : Obligations.BlkLoadEffect := by
  intro s
  refine ⟨_, rfl, fun p q h1 h64 hq => ?_, rfl⟩
  obtain ⟨okIP, -⟩ := tables_ok
  obtain ⟨q1, q64⟩ := entry_of_tableOk okIP h1 h64
  subst hq
  exact (bitAt_loadedHalves (textBlock s s.b) h1 h64).trans
    (bitAt_wordOfBytes_readBytes (textByte s) (8 * s.b) _ q1 q64)

/-- Settles O11: the round key of the round exists, and the round is one step of the Feistel network. -/
theorem blkRoundEffect : Obligations.BlkRoundEffect := by
  rintro s _ rfl hi
  have index : (blkRoundStep s).i.toNat = s.i.toNat + 1 := toNat_index_succ s.i hi
  refine ⟨blkRoundStep s, _, if_pos hi, getElem?_roundKeyIndex s.rk s.dir _ hi, rfl, rfl, index, ?_⟩
  simp only [last_round_iff]
  rfl

/-- Byte `k` of what BLK_STORE writes, bit by bit, is FP of R and L side by side (44_block_controller.md R186). -/
theorem storedBytes_bit (s : State) {k j : Nat} (hk : k < 8) (h1 : 1 ≤ j) (h8 : j ≤ 8) :
    ((storedBytes s).getD k 0).getLsbD (8 - j) = bitAt (s.r ++ s.l) (tableFP.getD (8 * k + j - 1) 0) := by
  obtain ⟨-, lengthFP, -⟩ := table_lengths
  rw [← bitAt_wordOfBytes (length_storedBytes s) hk h1 h8, storedBytes, wordOfBytes_bytesOfWord]
  exact bitAt_permute lengthFP (s.r ++ s.l) (by omega) (by omega)

/-- Settles O12: what an eight-byte write leaves inside its range and outside it. -/
theorem blkStoreEffect : Obligations.BlkStoreEffect := by
  intro s
  refine ⟨rfl, _, rfl, fun k j hk h1 h8 => ⟨(storedBytes s).getD k 0, ?_, storedBytes_bit s hk h1 h8⟩,
    fun a ha => ?_, ?_⟩
  · have inside : k < (storedBytes s).length := hk.trans_eq (length_storedBytes s).symm
    rw [List.getD_eq_getElem _ _ inside]
    exact Memory.read_writeBytes_mem _ _ _ _ inside
  · exact Memory.read_writeBytes_out _ _ _ _ (by rwa [length_storedBytes])
  · rw [← phaseAfterBlocks_eq]
    rfl

/-! ### The end of a run -/

/-- Settles O13: the two branches of STRIP. -/
theorem stripEffect : Obligations.StripEffect := by
  rintro s _ rfl
  refine ⟨fun h1 hw => ?_, fun unusable => ⟨_, exec_strip_of_unusable unusable, raise_effect .padStripError s⟩⟩
  have usable : ¬(s.wlen = 0 ∨ padCount s = 0 ∨ s.wlen < padCount s) := by unfold padCount; omega
  exact exec_strip_of_usable usable

/-- Settles O14: the fields of the new STATUS, and OLEN by the command. -/
theorem finishEffect : Obligations.FinishEffect := by
  intro s
  refine ⟨_, rfl, busy_of_status rfl, done_of_status rfl, err_of_status rfl, ?_⟩
  simp only [Bool.and_eq_true]
  rfl

end Sys2Proof.Machine
end

section
/-! PROOF. What a run computes (44_block_controller.md R170, R173 to R179, R189): a block undone by the other direction,
then whole texts, then the four commands. -/

namespace Sys2Proof.Machine

/-! ### A block undone (R177, R178) -/

section
variable (rk : RoundKeys) (dir : Bool)

theorem loadedHalves_blockOutput (lr : Half × Half) : loadedHalves (blockOutput lr) = lr.swap := by
  obtain ⟨-, ipOfFp, -⟩ := initialPermutationInverse
  rw [loadedHalves, blockOutput, ipOfFp]
  exact Prod.ext (BitVec.extractLsb'_append_eq_left (a := lr.2)) (BitVec.extractLsb'_append_eq_right (b := lr.1))

theorem blockOutput_swap_loadedHalves (x : BlockWord) : blockOutput (loadedHalves x).swap = x := by
  obtain ⟨-, -, fpOfIp⟩ := initialPermutationInverse
  have halves : (loadedHalves x).1 ++ (loadedHalves x).2 = permute 64 tableIP x :=
    BitVec.extractLsb'_append_extractLsb' (w := 32) (len := 32)
  rw [blockOutput]
  exact (congrArg (permute 64 tableFP) halves).trans (fpOfIp x)

/-- A round on the swapped result of a round gives the swapped halves from before it. -/
theorem roundPair_swap_roundPair (lr : Half × Half) (k : RoundKey) : roundPair (roundPair lr k).swap k = lr.swap :=
  Prod.swap_eq_iff_eq_swap.1 (swap_roundPair_involutive k lr)

/-- The other direction uses the round keys in the opposite order (30_encoding.md R89). -/
theorem roundKeyAt_not {i j : Nat} (h : i + j = 15) : roundKeyAt rk (!dir) i = roundKeyAt rk dir j := by
  have index : roundKeyIndex (!dir) i = roundKeyIndex dir j := by
    cases dir <;> simp [roundKeyIndex] <;> omega
  rw [roundKeyAt, roundKeyAt, index]

/-- `m` rounds of the other direction undo the last `m` of sixteen, on swapped halves. -/
theorem afterRounds_not_swap (lr : Half × Half) {m : Nat} : ∀ {n : Nat}, m + n = 16 →
    afterRounds rk (!dir) (afterRounds rk dir lr 16).swap m = (afterRounds rk dir lr n).swap := by
  induction m with
  | zero =>
    intro n h
    obtain rfl : n = 16 := by omega
    rfl
  | succ m ih =>
    intro n h
    rw [afterRounds, ih (n := n + 1) (by omega), roundKeyAt_not rk dir (j := n) (by omega), afterRounds,
      roundPair_swap_roundPair]

/-- A block put through the one direction and then the other is the block. -/
theorem blockCipher_not_blockCipher (x : BlockWord) : blockCipher rk (!dir) (blockCipher rk dir x) = x := by
  have undone := afterRounds_not_swap rk dir (loadedHalves x) (m := 16) (n := 0) rfl
  rw [blockCipher, blockCipher, loadedHalves_blockOutput]
  exact (congrArg blockOutput undone).trans (blockOutput_swap_loadedHalves x)

/-! ### Whole blocks undone (R178) -/

theorem ecb_not_ecb {n : Nat} : ∀ {ys : List Byte}, ys.length = 8 * n → ecb rk (!dir) (ecb rk dir ys) = ys := by
  induction n with
  | zero =>
    intro ys h
    obtain rfl := List.length_eq_zero_iff.1 h
    rfl
  | succ n ih =>
    intro ys h
    have eight : (ys.take 8).length = 8 := by rw [List.length_take]; omega
    have rest : (ys.drop 8).length = 8 * n := by rw [List.length_drop]; omega
    rw [ecb_cons rk dir ys (by omega), ecb_cons _ _ _ (by simp), List.take_left' (length_bytesOfWord _),
      List.drop_left' (length_bytesOfWord _), wordOfBytes_bytesOfWord, blockCipher_not_blockCipher,
      bytesOfWord_wordOfBytes eight, ih rest, List.take_append_drop]

end

/-- Settles O32: both orders are a direction followed by the other. -/
theorem blockRoundTrip : Obligations.BlockRoundTrip := fun rk x =>
  ⟨blockCipher_not_blockCipher rk false x, blockCipher_not_blockCipher rk true x⟩

/-! ### The commands (R173 to R176) -/

section
variable {key data : List Byte} {dir pad : Bool}

/-- The round keys of a key operand: KS of its first eight bytes (R170 step 3). -/
def roundKeysOf (key : List Byte) : RoundKeys := ks (wordOfBytes (key.take 8))

theorem run_of_short_key (h : key.length < 8) : run key data dir pad = .error .invalidKeyLength := if_pos h

theorem run_of_ragged_data (long : 8 ≤ key.length) (ragged : data.length % 8 ≠ 0)
    (other : ¬(pad = true ∧ dir = false)) : run key data dir pad = .error .unalignedData := by
  simp only [run, Nat.not_lt.2 long, if_false, workingText_unaligned ragged other]

/-- ENC and DEC of whole blocks (R173, R174). -/
theorem run_unpadded (long : 8 ≤ key.length) (whole : data.length % 8 = 0) :
    run key data dir false = .ok (ecb (roundKeysOf key) dir data) :=
  run_of_workingText long (workingText_aligned whole (by simp))

/-- How many bytes ENCP adds (20_memory.md R52). -/
def padLength (data : List Byte) : Nat := 8 - data.length % 8

theorem padLength_bounds (data : List Byte) : 1 ≤ padLength data ∧ padLength data ≤ 8 := by
  unfold padLength
  omega

/-- The working text of ENCP (R170 step 2). -/
def paddedText (data : List Byte) : List Byte := data ++ List.replicate (padLength data) Config.padByte

@[simp] theorem length_paddedText (data : List Byte) : (paddedText data).length = data.length + padLength data := by
  simp [paddedText]

theorem paddedText_whole (data : List Byte) : (paddedText data).length % 8 = 0 := by
  rw [length_paddedText, padLength]
  omega

/-- ENCP pads up to the next multiple of 8 (R175). -/
theorem run_encp (long : 8 ≤ key.length) :
    run key data false true = .ok (ecb (roundKeysOf key) false (paddedText data)) :=
  run_of_workingText long (workingText_encp data)

/-- DECP strips what DEC gives (R176). -/
theorem run_decp (long : 8 ≤ key.length) (whole : data.length % 8 = 0) :
    run key data true true = stripPad (ecb (roundKeysOf key) true data) :=
  run_of_workingText long (workingText_aligned whole (by simp))

theorem length_ecb_of_whole (rk : RoundKeys) (dir : Bool) (h : data.length % 8 = 0) :
    (ecb rk dir data).length = data.length := by
  rw [length_ecb]
  omega

theorem stripPad_of_last {out : List Byte} {v : Byte} (last : out.getLast? = some v) : stripPad out =
    if 1 ≤ v.toNat ∧ v.toNat ≤ out.length then .ok (out.take (out.length - v.toNat)) else .error .padStripError := by
  rw [stripPad, last]
  dsimp only
  by_cases bad : v.toNat = 0 ∨ out.length < v.toNat
  · rw [if_pos bad, if_neg (by omega)]
  · rw [if_neg bad, if_pos (by omega)]

/-- Stripping gives `text` exactly from `text` and a tail whose last byte is the tail's length. -/
theorem stripPad_eq_ok_iff {out text : List Byte} : stripPad out = .ok text ↔
    ∃ (tail : List Byte) (v : Byte), out = text ++ tail ∧ tail.getLast? = some v ∧ v.toNat = tail.length := by
  constructor
  · intro h
    cases last : out.getLast? with
    | none => simp [stripPad, last] at h
    | some v =>
      rw [stripPad_of_last last] at h
      split at h
      case isFalse => cases h
      case isTrue usable =>
        obtain rfl := Except.ok.inj h
        refine ⟨out.drop (out.length - v.toNat), v, (List.take_append_drop _ out).symm, ?_, ?_⟩
        · rw [List.getLast?_drop, if_neg (by omega), last]
        · rw [List.length_drop]
          omega
  · rintro ⟨tail, v, rfl, last, count⟩
    have nonempty : tail ≠ [] := by
      rintro rfl
      cases last
    have positive : 0 < tail.length := List.length_pos_iff.2 nonempty
    have last' : (text ++ tail).getLast? = some v := (List.getLast?_append_of_ne_nil text nonempty).trans last
    rw [stripPad_of_last last', if_pos (by rw [List.length_append]; omega), count, List.length_append,
      Nat.add_sub_cancel, List.take_left]

end

/-- Settles O34: the two checks, then the length of whole blocks, then the strip. -/
theorem commandOutcomes : Obligations.CommandOutcomes := by
  intro key data
  refine ⟨fun short dir pad => run_of_short_key short,
    fun long ragged dir pad other => run_of_ragged_data long ragged other,
    fun long whole dir => ⟨_, run_unpadded long whole, length_ecb_of_whole _ dir whole⟩,
    fun long => ⟨_, run_encp long, ?_⟩,
    fun long whole => ⟨_, run_unpadded long whole, fun empty => ?_, fun v last => ?_⟩⟩
  · rw [length_ecb_of_whole _ false (paddedText_whole data), length_paddedText, padLength]
    omega
  · rw [run_decp long whole, empty]
    rfl
  · rw [run_decp long whole, stripPad_of_last last]

/-- Settles O36: a text of whole blocks comes back block by block. -/
theorem runRoundTrip : Obligations.RunRoundTrip := by
  intro key data dir long whole
  have whole' : (ecb (roundKeysOf key) dir data).length % 8 = 0 := by rwa [length_ecb_of_whole _ dir whole]
  refine ⟨_, run_unpadded long whole, ?_⟩
  rw [run_unpadded long whole', ecb_not_ecb _ dir (n := data.length / 8) (by omega)]

/-! ### Padding (R179) -/

section
variable {key data : List Byte}

/-- Stripping a padded text takes its last byte, 0x20, for a count of 32. -/
theorem stripPad_paddedText : stripPad (paddedText data) =
    if 32 ≤ (paddedText data).length then .ok (data.take ((paddedText data).length - 32))
    else .error .padStripError := by
  obtain ⟨atLeast, atMost⟩ := padLength_bounds data
  have last : (paddedText data).getLast? = some Config.padByte := by
    rw [paddedText, List.getLast?_append, List.getLast?_replicate, if_neg (by omega)]
    rfl
  have pad : Config.padByte.toNat = 32 := rfl
  have dropped : (paddedText data).take ((paddedText data).length - 32) =
      data.take ((paddedText data).length - 32) :=
    List.take_append_of_le_length (by rw [length_paddedText]; omega)
  rw [stripPad_of_last last, pad, dropped]
  simp

/-- What is left after 32 bytes are dropped from at most 8 more than the data is not the data. -/
theorem stripPad_paddedText_ne : stripPad (paddedText data) ≠ .ok data := by
  obtain ⟨atLeast, atMost⟩ := padLength_bounds data
  rw [stripPad_paddedText]
  split
  case isFalse => simp
  case isTrue enough =>
    intro h
    have length : (data.take ((paddedText data).length - 32)).length = data.length :=
      congrArg List.length (Except.ok.inj h)
    rw [length_paddedText] at enough length
    rw [List.length_take] at length
    omega

theorem run_decp_eq_ok_iff (long : 8 ≤ key.length) {c : List Byte} : run key c true true = .ok data ↔
    ∃ (tail : List Byte) (v : Byte), run key c true false = .ok (data ++ tail) ∧ tail.getLast? = some v ∧
      v.toNat = tail.length := by
  by_cases whole : c.length % 8 = 0
  · simp only [run_decp long whole, run_unpadded long whole, stripPad_eq_ok_iff, Except.ok.injEq]
  · simp [run_of_ragged_data long whole]

end

/-- Settles O37: DEC gives the padded text back, whose last byte is 0x20. -/
theorem paddingLaws : Obligations.PaddingLaws := by
  refine fun key long => ⟨fun data => ?_, fun c data => run_decp_eq_ok_iff long⟩
  obtain ⟨atLeast, atMost⟩ := padLength_bounds data
  have whole := paddedText_whole data
  have length := length_ecb_of_whole (roundKeysOf key) false whole
  have outWhole : (ecb (roundKeysOf key) false (paddedText data)).length % 8 = 0 := length ▸ whole
  have back : ecb (roundKeysOf key) true (ecb (roundKeysOf key) false (paddedText data)) = paddedText data :=
    ecb_not_ecb _ false (n := (paddedText data).length / 8) (by omega)
  refine ⟨_, padLength data, run_encp long, atLeast, atMost, length.trans (length_paddedText data), ?_, ?_, ?_⟩
  · rw [run_unpadded long outWhole, back]
    rfl
  · rw [run_decp long outWhole, back, length]
    exact stripPad_paddedText
  · rw [run_decp long outWhole, back]
    exact stripPad_paddedText_ne

/-! ### What the key operand is used for (R189) -/

/-- A run depends on the key operand through its length check and its round keys only. -/
theorem run_congr_key {key key' data : List Byte} {dir pad : Bool} (long : 8 ≤ key.length ↔ 8 ≤ key'.length)
    (keys : 8 ≤ key.length → roundKeysOf key = roundKeysOf key') : run key data dir pad = run key' data dir pad := by
  obtain short | enough := Nat.lt_or_ge key.length 8
  · rw [run_of_short_key short, run_of_short_key (by omega)]
  · unfold roundKeysOf at keys
    simp only [run, Nat.not_lt.2 enough, Nat.not_lt.2 (long.1 enough), keys enough]

/-- Keys that agree in bits 1..7 of their first eight bytes have the same round keys: position `8k + j` of the key is
bit `8 - j` of byte `k`, so bit 0 is the parity bit. -/
theorem roundKeysOf_congr {key key' : List Byte} (long : 8 ≤ key.length) (long' : 8 ≤ key'.length)
    (bits : ∀ k j, k < 8 → 1 ≤ j → j ≤ 7 → (key.getD k 0).getLsbD j = (key'.getD k 0).getLsbD j) :
    roundKeysOf key = roundKeysOf key' := by
  have bitAt_key {key : List Byte} (long : 8 ≤ key.length) {k j : Nat} (hk : k < 8) (h1 : 1 ≤ j) (h8 : j ≤ 8) :
      bitAt (wordOfBytes (key.take 8)) (8 * k + j) = (key.getD k 0).getLsbD (8 - j) := by
    rw [bitAt_wordOfBytes (by simpa using long) hk h1 h8]
    simp [List.getD, hk]
  refine ks_congr (pc1Split_congr fun p h1 h64 notParity => ?_)
  have split : p = 8 * (p / 8) + p % 8 := by omega
  rw [split, bitAt_key long (by omega) (by omega) (by omega), bitAt_key long' (by omega) (by omega) (by omega)]
  exact bits _ _ (by omega) (by omega) (by omega)

/-- Settles O38: the first eight bytes of a longer key are the key, and parity bits make no round key. -/
theorem keyTruncation : Obligations.KeyTruncation := by
  refine ⟨fun key suffix data dir pad eight => run_congr_key ?_ fun _ => ?_,
    fun key key' data dir pad long bits => run_congr_key long fun enough =>
      roundKeysOf_congr enough (long.1 enough) (bits enough)⟩
  · rw [List.length_append]
    omega
  · rw [roundKeysOf, roundKeysOf, List.take_left' eight, ← eight, List.take_length]

end Sys2Proof.Machine
end

section
/-! PROOF. The sequencer computes Run (44_block_controller.md R172, R188): along a run the two invariants hold and the
phases to come are a suffix of the run's trace, and at its end OUT and STATUS are read off the data invariant. -/

namespace Sys2Proof.Machine

/-! ### Bytes of a view -/

section
variable {f g : Nat → Byte} {a m n : Nat}

theorem take_readBytes (h : m ≤ n) : (readBytes f a n).take m = readBytes f a m := by
  rw [readBytes, readBytes, ← List.map_take, List.take_range, Nat.min_eq_left h]

theorem readBytes_add : readBytes f a (m + n) = readBytes f a m ++ readBytes f (a + m) n := by
  simp [readBytes, List.range_add, Nat.add_assoc]

/-- If each block of a view is the block function of the same block of another, the text is ECB of the other
(R170 steps 4 to 6). -/
theorem ecb_readBytes {rk : RoundKeys} {dir : Bool} (blocks : ∀ j, j < n →
      wordOfBytes (readBytes g (a + 8 * j) 8) = blockCipher rk dir (wordOfBytes (readBytes f (a + 8 * j) 8))) :
    ecb rk dir (readBytes f a (8 * n)) = readBytes g a (8 * n) := by
  induction n generalizing a with
  | zero => rfl
  | succ n ih =>
    have length : (readBytes f a 8).length = 8 := length_readBytes f a 8
    have first : wordOfBytes (readBytes g a 8) = blockCipher rk dir (wordOfBytes (readBytes f a 8)) :=
      blocks 0 (Nat.succ_pos n)
    have rest := ih (a := a + 8) fun j hj => by
      have next : a + 8 + 8 * j = a + 8 * (j + 1) := by omega
      rw [next]
      exact blocks (j + 1) (Nat.succ_lt_succ hj)
    rw [Nat.mul_succ, Nat.add_comm, readBytes_add, readBytes_add, ecb_cons _ _ _ (by simp), List.take_left' length,
      List.drop_left' length, ← first, bytesOfWord_wordOfBytes (length_readBytes g a 8), rest]

end

/-! ### The result of a run in its last phases -/

/-- `Run` of the operands a state holds and the command it has latched (R170). -/
def runOf (s : State) : Except ErrorKind (List Byte) := run (keyOperand s) (dataOperand s) s.dir s.pad

/-- The text the blocks are stored in, `OUT[0 .. WLEN-1]`. -/
def outText (s : State) : List Byte := readBytes (outByte s) 0 s.wlen

section
variable {s t : State}

/-- The micro-operations do not touch what `Run` is computed from, nor the host's list (10_state.md R34). -/
theorem uop_keeps_run {i : Instr} {c : BitVec 4} (hi : encode i = .uop c) (he : exec i s = .next t) :
    t.hostq = s.hostq ∧ runOf t = runOf s := by
  obtain ⟨-, -, -, -, -, -, -, -, -, latched, klen, dlen, keybuf, inbuf, hostq, -, -, resets⟩ :=
    registerWriters i s t he
  have noCommand : ¬(t.dir ≠ s.dir ∨ t.pad ≠ s.pad ∨ t.cmd ≠ s.cmd) := fun h => by
    obtain ⟨w, hw⟩ := latched h
    cases hi.symm.trans hw
  obtain ⟨dir, pad, -⟩ : t.dir = s.dir ∧ t.pad = s.pad ∧ t.cmd = s.cmd := by simpa using noCommand
  have keyBytes : keyByte t = keyByte s := funext fun a => by rw [keyByte, keyByte, keybuf, resets]
  have inBytes : inByte t = inByte s := funext fun a => by rw [inByte, inByte, inbuf, resets]
  refine ⟨hostq, ?_⟩
  rw [runOf, runOf, keyOperand, keyOperand, dataOperand, dataOperand, keyBytes, inBytes, klen, dlen, dir, pad]

theorem runOf_of_short_key (h : s.klen < 8) : runOf s = .error .invalidKeyLength :=
  run_of_short_key (by rwa [keyOperand, length_readBytes])

theorem runOf_of_ragged (long : 8 ≤ s.klen) (ragged : workingLength s % 8 ≠ 0) : runOf s = .error .unalignedData := by
  have other : ¬(s.pad = true ∧ s.dir = false) := fun encp => by
    rw [workingLength_of_encp encp] at ragged
    omega
  rw [workingLength_of_not_encp other] at ragged
  exact run_of_ragged_data (by rwa [keyOperand, length_readBytes]) (by rwa [dataOperand, length_readBytes]) other

/-- TEXT below WLEN is the working text of the run (20_memory.md R52, R170 step 2). -/
theorem workingText_operands (checked : Checked s) :
    workingText (dataOperand s) s.dir s.pad = .ok (readBytes (textByte s) 0 s.wlen) := by
  obtain ⟨-, work, whole⟩ := checked
  have inPart : readBytes (textByte s) 0 s.dlen = dataOperand s :=
    readBytes_congr fun k hk => textByte_of_lt_dlen (by omega)
  have length : (dataOperand s).length = s.dlen := length_readBytes _ _ _
  by_cases encp : s.pad = true ∧ s.dir = false
  · rw [workingLength_of_encp encp] at work
    have padPart : readBytes (textByte s) (0 + s.dlen) (8 - s.dlen % 8) =
        List.replicate (8 - s.dlen % 8) Config.padByte := by
      refine List.eq_replicate_iff.2 ⟨length_readBytes _ _ _, fun v hv => ?_⟩
      obtain ⟨k, hk, rfl⟩ := List.mem_map.1 hv
      have inside := List.mem_range.1 hk
      exact textByte_of_dlen_le (by omega) (by omega)
    obtain ⟨pad, dir⟩ := encp
    rw [pad, dir, workingText_encp, length, work, readBytes_add, inPart, padPart]
  · rw [workingLength_of_not_encp encp] at work
    rw [workingText_aligned (by omega) encp, work, inPart]

/-- With all blocks stored, `Run` is OUT below WLEN, stripped for DECP (R170 steps 4 to 7). -/
theorem runOf_of_stored (checked : Checked s) (data : DataInv s) (h8 : 8 ≤ s.phase.toNat) :
    runOf s = if s.pad && s.dir then stripPad (outText s) else .ok (outText s) := by
  have long : 8 ≤ (keyOperand s).length := by rw [keyOperand, length_readBytes]; exact checked.keyLong
  have keys : ks (wordOfBytes ((keyOperand s).take 8)) = s.rk := by
    rw [data.keys (by omega), data.key (by omega), keyOperand, take_readBytes checked.keyLong]
    rfl
  have blocks : ecb s.rk s.dir (readBytes (textByte s) 0 s.wlen) = outText s := by
    rw [outText, checked.wholeBlocks]
    refine ecb_readBytes fun j hj => ?_
    rw [Nat.zero_add]
    exact data.storedAll h8 j hj
  rw [runOf, run_of_workingText long (workingText_operands checked), keys, blocks]

theorem getLast?_outText (h : 1 ≤ s.wlen) : (outText s).getLast? = some (outByte s (s.wlen - 1)) := by
  obtain ⟨n, hn⟩ := Nat.exists_eq_add_of_le' h
  rw [outText, hn, readBytes_add, List.getLast?_append, Nat.zero_add]
  rfl

/-- STRIP refuses exactly the texts `stripPad` refuses, and keeps as many bytes (R170 step 7, R187). -/
theorem stripPad_outText : stripPad (outText s) =
    if s.wlen = 0 ∨ padCount s = 0 ∨ s.wlen < padCount s then .error .padStripError
    else .ok (readBytes (outByte s) 0 (s.wlen - padCount s)) := by
  obtain empty | nonempty := Nat.eq_zero_or_pos s.wlen
  · rw [if_pos (.inl empty), outText, empty]
    rfl
  have length : (outText s).length = s.wlen := length_readBytes _ _ _
  have count : (outByte s (s.wlen - 1)).toNat = padCount s := rfl
  rw [stripPad_of_last (getLast?_outText nonempty), length, count, outText, take_readBytes (Nat.sub_le _ _)]
  by_cases usable : 1 ≤ padCount s ∧ padCount s ≤ s.wlen
  · rw [if_pos usable, if_neg (by omega)]
  · rw [if_neg usable, if_pos (by omega)]

end

/-! ### The phases to come (R172) -/

/-- The phases of `n` blocks and of what follows them. -/
def blocksTrace (n : Nat) (strip : Bool) : List (BitVec 4) :=
  (List.replicate n (phaseBlkLoad :: (List.replicate 16 phaseBlkRound ++ [phaseBlkStore]))).flatten ++
    ((if strip then [phaseStrip] else []) ++ [phaseFinish])

theorem blocksTrace_succ (n : Nat) (strip : Bool) : blocksTrace (n + 1) strip =
    phaseBlkLoad :: (List.replicate 16 phaseBlkRound ++ phaseBlkStore :: blocksTrace n strip) := by
  simp [blocksTrace, List.replicate_succ (n := n)]

/-- The phases of a run from KS_PC1 on. -/
def scheduleTrace (n : Nat) (strip : Bool) : List (BitVec 4) :=
  phaseKsPc1 :: (List.replicate 16 phaseKsRound ++ blocksTrace n strip)

theorem runTrace_eq (n : Nat) (strip : Bool) :
    runTrace n strip = phaseKeychk :: phaseLenchk :: scheduleTrace n strip := rfl

theorem length_runTrace (n : Nat) (strip : Bool) :
    (runTrace n strip).length = 20 + 18 * n + (if strip then 1 else 0) := by
  cases strip <;> simp [runTrace] <;> omega

/-- The phases a run in phase `p` still goes through if it does not fail, `p` first. -/
def phasesLeftAt (p : BitVec 4) (s : State) : List (BitVec 4) :=
  let strip := s.pad && s.dir
  match p.toNat with
  | 1 => phaseKeychk :: phaseLenchk :: scheduleTrace (workingLength s / 8) strip
  | 2 => phaseLenchk :: scheduleTrace (workingLength s / 8) strip
  | 3 => scheduleTrace s.nblk strip
  | 4 => List.replicate (16 - s.i.toNat) phaseKsRound ++ blocksTrace s.nblk strip
  | 5 => blocksTrace (s.nblk - s.b) strip
  | 6 => List.replicate (16 - s.i.toNat) phaseBlkRound ++ phaseBlkStore :: blocksTrace (s.nblk - (s.b + 1)) strip
  | 7 => phaseBlkStore :: blocksTrace (s.nblk - (s.b + 1)) strip
  | 8 => [phaseStrip, phaseFinish]
  | 9 => [phaseFinish]
  | _ => []

/-- The phases a run still goes through if it does not fail. -/
def phasesLeft (s : State) : List (BitVec 4) := phasesLeftAt s.phase s

/-- `t` is the state after `s` in a run that goes on: one phase of the trace is done, STATUS is as it was, and FINISH
is not reached this way in a run that must be stripped. -/
structure GoesOn (p : BitVec 4) (s t : State) : Prop where
  trace : phasesLeftAt p s = p :: phasesLeft t
  status : t.status = s.status
  unstripped : t.phase = phaseFinish → (t.pad && t.dir) = false

section
variable {s t : State}

theorem phasesLeft_of_phase {p : BitVec 4} (h : s.phase = p) : phasesLeft s = phasesLeftAt p s := by
  rw [phasesLeft, h]

theorem GoesOn.of_trace {p q : BitVec 4} (next : t.phase = q) (status : t.status = s.status)
    (trace : phasesLeftAt p s = p :: phasesLeftAt q t) (other : q ≠ phaseFinish := by decide) : GoesOn p s t :=
  ⟨trace.trans (congrArg _ (phasesLeft_of_phase next).symm), status, fun h => absurd (next.symm.trans h) other⟩

/-- After the last block only STRIP, for DECP, and FINISH are left. -/
theorem GoesOn.of_afterBlocks {p : BitVec 4} (next : t.phase = phaseAfterBlocks t) (status : t.status = s.status)
    (trace : phasesLeftAt p s = p :: blocksTrace 0 (t.pad && t.dir)) : GoesOn p s t := by
  unfold phaseAfterBlocks at next
  cases strip : t.pad && t.dir with
  | true =>
    rw [strip] at next trace
    exact .of_trace (q := phaseStrip) next status trace
  | false =>
    rw [strip] at next trace
    exact ⟨trace.trans (congrArg _ (phasesLeft_of_phase next).symm), status, fun _ => strip⟩

/-- Sixteen rounds less `i` are one round and sixteen less `i + 1`. -/
theorem replicate_rounds {i : Nat} (h : i < 16) (p : BitVec 4) (rest : List (BitVec 4)) :
    List.replicate (16 - i) p ++ rest = p :: (List.replicate (16 - (i + 1)) p ++ rest) := by
  have left : 16 - i = (16 - (i + 1)) + 1 := by omega
  rw [left]
  rfl

theorem goesOn_keychk : GoesOn phaseKeychk s { s with key := keyWord s, phase := phaseLenchk } :=
  .of_trace (q := phaseLenchk) rfl rfl rfl

theorem goesOn_lenchk : GoesOn phaseLenchk s (setLengths (workingLength s) s) :=
  .of_trace (q := phaseKsPc1) rfl rfl rfl

theorem goesOn_ksPc1 (he : exec .ksPc1 s = .next t) : GoesOn phaseKsPc1 s t := by
  obtain rfl := eq_of_exec_ksPc1 he
  exact .of_trace (q := phaseKsRound) rfl rfl rfl

theorem goesOn_ksRound (phase : s.phase = phaseKsRound) (he : exec .ksRound s = .next t) :
    GoesOn phaseKsRound s t := by
  obtain ⟨hi, rfl⟩ := eq_of_exec_ksRound he
  have trace : phasesLeftAt phaseKsRound s = phaseKsRound ::
      (List.replicate (16 - (s.i.toNat + 1)) phaseKsRound ++ blocksTrace s.nblk (s.pad && s.dir)) :=
    replicate_rounds hi _ _
  by_cases last : s.i.toNat + 1 = Config.nRounds
  · have next : (ksRoundStep s).phase = phaseAfterKeys s := by simp [last]
    have noRound : 16 - (s.i.toNat + 1) = 0 := by rw [last]; rfl
    rw [noRound] at trace
    rw [phaseAfterKeys] at next
    split at next
    case isTrue =>
      have first : (ksRoundStep s).b = 0 := by simp [last]
      refine .of_trace next rfl (trace.trans ?_)
      show _ = phaseKsRound :: blocksTrace (s.nblk - (ksRoundStep s).b) _
      rw [first]
      rfl
    case isFalse empty =>
      have none : s.nblk = 0 := by omega
      rw [none] at trace
      exact .of_afterBlocks next rfl trace
  · have next : (ksRoundStep s).phase = phaseKsRound := by simpa [last] using phase
    have hi' : (ksRoundStep s).i.toNat = s.i.toNat + 1 := toNat_index_succ s.i hi
    rw [← hi'] at trace
    exact .of_trace next rfl trace

/-- With a block in work, the blocks left are that block and the ones after it. -/
theorem BlockInWork.blocks_left (h : BlockInWork s) : s.nblk - s.b = (s.nblk - (s.b + 1)) + 1 := by
  have index := h.index
  omega

theorem goesOn_blkLoad (block : BlockInWork s) (he : exec .blkLoad s = .next t) : GoesOn phaseBlkLoad s t := by
  obtain rfl := eq_of_exec_blkLoad he
  refine .of_trace (q := phaseBlkRound) rfl rfl ?_
  show blocksTrace (s.nblk - s.b) _ = _
  rw [block.blocks_left, blocksTrace_succ]
  rfl

theorem goesOn_blkRound (phase : s.phase = phaseBlkRound) (he : exec .blkRound s = .next t) :
    GoesOn phaseBlkRound s t := by
  obtain ⟨hi, rfl⟩ := eq_of_exec_blkRound he
  have trace : phasesLeftAt phaseBlkRound s = phaseBlkRound :: (List.replicate (16 - (s.i.toNat + 1)) phaseBlkRound ++
      phaseBlkStore :: blocksTrace (s.nblk - (s.b + 1)) (s.pad && s.dir)) := replicate_rounds hi _ _
  by_cases last : s.i.toNat + 1 = Config.nRounds
  · have next : (blkRoundStep s).phase = phaseBlkStore := by simp [last]
    have noRound : 16 - (s.i.toNat + 1) = 0 := by rw [last]; rfl
    rw [noRound] at trace
    exact .of_trace next rfl trace
  · have next : (blkRoundStep s).phase = phaseBlkRound := by simpa [last] using phase
    have hi' : (blkRoundStep s).i.toNat = s.i.toNat + 1 := toNat_index_succ s.i hi
    rw [← hi'] at trace
    exact .of_trace next rfl trace

theorem goesOn_blkStore (he : exec .blkStore s = .next t) : GoesOn phaseBlkStore s t := by
  obtain rfl := eq_of_exec_blkStore he
  by_cases last : s.b + 1 = s.nblk
  · have none : s.nblk - (s.b + 1) = 0 := by omega
    exact .of_afterBlocks (if_pos last) rfl
      (congrArg (fun n => phaseBlkStore :: blocksTrace n (s.pad && s.dir)) none)
  · exact .of_trace (q := phaseBlkLoad) (if_neg last) rfl rfl

end

/-! ### One step of a run -/

/-- A run under way with the host quiet: both invariants hold, and in FINISH of a stripped run OLEN is the length of
the result. -/
structure Running (s : State) : Prop where
  quiet : s.hostq = []
  status : s.status = statusStart
  point : ControlPoint s
  data : DataInv s
  stripped : s.phase = phaseFinish → (s.pad && s.dir) = true → runOf s = .ok (readBytes (outByte s) 0 s.olen)

/-- The engine has ended a run with result `r` (44_block_controller.md R188, 60_exceptions.md R216). -/
structure Delivered (r : Except ErrorKind (List Byte)) (t : State) : Prop where
  phase : t.phase = phaseIdle
  busy : t.busy = false
  done : t.done = true
  ok : ∀ out, r = .ok out → t.err = 0 ∧ t.olen = out.length ∧ resultOperand t = out
  error : ∀ e, r = .error e → t.err = e.code ∧ t.olen = 0

/-- What a step of a run in phase `p` does: it goes on, or it ends, and leaves phases out only if it fails. -/
inductive RunStep (p : BitVec 4) (s t : State) : Prop where
  | goesOn (running : Running t) (result : runOf t = runOf s) (trace : phasesLeftAt p s = p :: phasesLeft t)
  | ends {rest : List (BitVec 4)} (trace : phasesLeftAt p s = p :: rest)
      (complete : ∀ out, runOf s = .ok out → rest = []) (delivered : Delivered (runOf s) t)

section
variable {s t : State} {p : BitVec 4}

theorem Running.goesOn {i : Instr} (h : Running s) (phase : s.phase = p) (hd : decodeUop p = .ok i)
    (he : exec i s = .next t) (goes : GoesOn p s t) : RunStep p s t := by
  subst phase
  obtain ⟨hostq, result⟩ := uop_keeps_run (encode_of_decodeUop hd) he
  exact .goesOn ⟨hostq.trans h.quiet, goes.status.trans h.status, h.point.exec hd he, h.data.exec h.point hd he,
    fun finish strip => absurd strip (by simp [goes.unstripped finish])⟩ result goes.trace

/-- An abort delivers its error (60_exceptions.md R216). -/
theorem runStep_raise {e : ErrorKind} {rest : List (BitVec 4)} (trace : phasesLeftAt p s = p :: rest)
    (result : runOf s = .error e) : RunStep p s (raise e s) := by
  have noText (out) (ok : runOf s = .ok out) {P : Prop} : P := by cases result.symm.trans ok
  refine .ends trace (fun out ok => noText out ok)
    ⟨rfl, raise_busy e s, raise_done e s, fun out ok => noText out ok, fun e' error => ?_⟩
  · cases result.symm.trans error
    exact ⟨raise_err e s, rfl⟩

theorem Running.after_keychk (h : Running s) (phase : s.phase = phaseKeychk) (he : exec .keychk s = .next t) :
    RunStep phaseKeychk s t := by
  obtain ⟨short, rfl⟩ | ⟨-, rfl⟩ := exec_keychk_cases he
  · exact runStep_raise rfl (runOf_of_short_key short)
  · exact h.goesOn phase rfl he goesOn_keychk

theorem Running.after_lenchk (h : Running s) (phase : s.phase = phaseLenchk) (long : 8 ≤ s.klen)
    (he : exec .lenchk s = .next t) : RunStep phaseLenchk s t := by
  obtain ⟨ragged, rfl⟩ | ⟨-, rfl⟩ := exec_lenchk_cases he
  · exact runStep_raise rfl (runOf_of_ragged long ragged)
  · exact h.goesOn phase rfl he goesOn_lenchk

/-- STRIP fails or leaves in OLEN what `stripPad` keeps. -/
theorem Running.after_strip (h : Running s) (phase : s.phase = phaseStrip) (checked : Checked s)
    (decp : s.pad = true ∧ s.dir = true) (he : exec .strip s = .next t) : RunStep phaseStrip s t := by
  have result := runOf_of_stored checked h.data (by rw [phase]; decide)
  rw [if_pos (by simpa using decp), stripPad_outText] at result
  obtain ⟨unusable, rfl⟩ | ⟨usable, rfl⟩ := exec_strip_cases he
  · rw [if_pos unusable] at result
    exact runStep_raise rfl result
  · rw [if_neg usable] at result
    have hd : decodeUop s.phase = .ok .strip := by rw [phase]; rfl
    exact .goesOn ⟨h.quiet, h.status, h.point.exec hd he, h.data.exec h.point hd he, fun _ _ => result⟩ rfl rfl

/-- FINISH delivers OUT below the new OLEN. -/
theorem Running.after_finish (h : Running s) (phase : s.phase = phaseFinish) (checked : Checked s)
    (he : exec .finish s = .next t) : RunStep phaseFinish s t := by
  have result : runOf s = .ok (readBytes (outByte s) 0 (if s.pad && s.dir then s.olen else s.wlen)) := by
    cases strip : s.pad && s.dir with
    | true => exact h.stripped phase strip
    | false =>
      have stored := runOf_of_stored checked h.data (by rw [phase]; decide)
      rwa [strip] at stored
  obtain rfl := eq_of_exec_finish he
  have noError : statusFinish s = mkStatus false true 0 := by rw [statusFinish, err_of_status h.status]
  refine .ends rfl (fun _ _ => rfl) ⟨rfl, busy_of_status rfl, done_of_status rfl, fun out ok => ?_, fun e error => ?_⟩
  · cases result.symm.trans ok
    exact ⟨err_of_status noError, (length_readBytes _ _ _).symm, rfl⟩
  · cases result.symm.trans error

/-- The engine performs the micro-operation of its phase: what that does is the step. -/
theorem Running.step_of_uop {i : Instr} (h : Running s) (phase : s.phase = p) (hd : decodeUop p = .ok i)
    (index : i = .ksRound ∨ i = .blkRound → s.i.toNat < 16)
    (after : ∀ {t}, exec i s = .next t → RunStep p s t) : ∃ t, step s = .next t ∧ RunStep s.phase s t := by
  subst phase
  obtain ⟨t, ht⟩ : ∃ t, exec i s = .next t := exec_next_of_index index
  exact ⟨t, (Machine.step_of_uop h.quiet hd).trans ht, after ht⟩

theorem Running.step (h : Running s) : ∃ t, step s = .next t ∧ RunStep s.phase s t := by
  cases h.point with
  | idle _ idle => exact absurd (busy_of_status h.status) (by simp [idle])
  | keychk run => exact h.step_of_uop run.phase rfl (by simp) (h.after_keychk run.phase)
  | lenchk run _ long => exact h.step_of_uop run.phase rfl (by simp) (h.after_lenchk run.phase long)
  | ksPc1 run =>
    exact h.step_of_uop run.phase rfl (by simp) fun he => h.goesOn run.phase rfl he (goesOn_ksPc1 he)
  | ksRound run _ _ index =>
    exact h.step_of_uop run.phase rfl (fun _ => index) fun he =>
      h.goesOn run.phase rfl he (goesOn_ksRound run.phase he)
  | blkLoad run _ _ block =>
    exact h.step_of_uop run.phase rfl (by simp) fun he => h.goesOn run.phase rfl he (goesOn_blkLoad block he)
  | blkRound run _ _ _ index =>
    exact h.step_of_uop run.phase rfl (fun _ => index) fun he =>
      h.goesOn run.phase rfl he (goesOn_blkRound run.phase he)
  | blkStore run =>
    exact h.step_of_uop run.phase rfl (by simp) fun he => h.goesOn run.phase rfl he (goesOn_blkStore he)
  | strip run _ checked decp =>
    exact h.step_of_uop run.phase rfl (by simp) (h.after_strip run.phase checked decp)
  | finish run checked => exact h.step_of_uop run.phase rfl (by simp) (h.after_finish run.phase checked)

/-! ### A run to its end -/

/-- From `s` the engine goes through `phases` and delivers the result of the run; if that is a text, it goes
through all of them (R172). -/
def RunsThrough (phases : List (BitVec 4)) (s : State) : Prop :=
  ∃ n t, n ≤ phases.length ∧ steps n s = .next t ∧ Delivered (runOf s) t ∧
    ∀ out, runOf s = .ok out → n = phases.length ∧
      ∀ k p, phases[k]? = some p → ∃ u, steps k s = .next u ∧ InRun p u

/-- The last step of a run. -/
theorem RunsThrough.last {rest : List (BitVec 4)} (hs : step s = .next t) (run : InRun p s)
    (delivered : Delivered (runOf s) t) (complete : ∀ out, runOf s = .ok out → rest = []) :
    RunsThrough (p :: rest) s := by
  refine ⟨1, t, by simp, steps_succ hs, delivered, fun out ok => ?_⟩
  obtain rfl := complete out ok
  refine ⟨rfl, fun k q hq => ?_⟩
  cases k with
  | zero =>
    obtain rfl := Option.some.inj hq
    exact ⟨s, steps_zero s, run⟩
  | succ k => cases hq

/-- A step before the rest of a run. -/
theorem RunsThrough.cons {rest : List (BitVec 4)} (h : RunsThrough rest t) (hs : step s = .next t) (run : InRun p s)
    (result : runOf t = runOf s) : RunsThrough (p :: rest) s := by
  obtain ⟨n, u, hn, hu, delivered, ok⟩ := h
  rw [result] at delivered ok
  refine ⟨n + 1, u, Nat.succ_le_succ hn, (steps_succ hs).trans hu, delivered, fun out hout => ?_⟩
  obtain ⟨complete, phases⟩ := ok out hout
  refine ⟨congrArg Nat.succ complete, fun k q hq => ?_⟩
  cases k with
  | zero =>
    obtain rfl := Option.some.inj hq
    exact ⟨s, steps_zero s, run⟩
  | succ k =>
    obtain ⟨v, hv, at_q⟩ := phases k q hq
    exact ⟨v, (steps_succ hs).trans hv, at_q⟩

theorem Running.runsThrough (h : Running s) : RunsThrough (phasesLeft s) s := by
  induction hm : (phasesLeft s).length using Nat.strong_induction_on generalizing s with
  | _ m ih =>
    have run : InRun s.phase s := ⟨rfl, h.status⟩
    obtain ⟨t, hs, step⟩ := h.step
    cases step with
    | goesOn running result trace =>
      rw [← phasesLeft] at trace
      rw [trace] at hm ⊢
      exact (ih _ (hm ▸ Nat.lt_succ_self _) running rfl).cons hs run result
    | ends trace complete delivered =>
      rw [← phasesLeft] at trace
      rw [trace]
      exact .last hs run delivered complete

end

theorem steps_starting {s : State} {w : BitVec 2} (hb : s.busy = false) (n : Nat) :
    steps (1 + n) (s.starting w) = steps n (startRun w { s with hostq := [] }) := by
  rw [Nat.add_comm]
  exact steps_succ (step_starting hb)

/-- NBLK of a run (R181). -/
theorem workingLength_div_eight (s : State) :
    workingLength s / 8 = if s.pad = true ∧ s.dir = false then s.dlen / 8 + 1 else s.dlen / 8 := by
  split
  case isTrue encp => rw [workingLength_of_encp encp]; omega
  case isFalse other => rw [workingLength_of_not_encp other]

/-- After START the engine goes through the trace of the run (R172, R188). -/
theorem runsThrough_startRun (s : State) (w : BitVec 2) {nblk : Nat}
    (hn : nblk = if cmdPad w = true ∧ cmdDir w = false then s.dlen / 8 + 1 else s.dlen / 8) :
    RunsThrough (runTrace nblk (cmdPad w && cmdDir w)) (startRun w { s with hostq := [] }) := by
  have running : Running (startRun w { s with hostq := [] }) :=
    ⟨rfl, rfl, controlPoint_startRun w _, dataInv_startRun w _, (by simp [phaseKeychk, phaseFinish])⟩
  have blocks : workingLength (startRun w { s with hostq := [] }) / 8 = nblk :=
    (workingLength_div_eight _).trans hn.symm
  rw [← blocks]
  exact running.runsThrough

/-- Settles O45: a run under way delivers the result of `Run` within the length of its trace. -/
theorem sequencerComputesRun : Obligations.SequencerComputesRun := by
  intro s w nblk hb hn
  obtain ⟨n, t, hle, ht, delivered, -⟩ := runsThrough_startRun s w hn
  rw [length_runTrace] at hle
  refine ⟨n, t, ?_, (steps_starting hb n).trans ht, delivered.phase, delivered.done, delivered.busy, delivered.ok,
    delivered.error⟩
  split at hle <;> omega

/-- Settles O46: a run that delivers a text goes through all of its trace. -/
theorem runOrderOfSteps : Obligations.RunOrderOfSteps := by
  intro s w nblk out hb hn hout
  obtain ⟨n, t, -, ht, delivered, ok⟩ := runsThrough_startRun s w hn
  obtain ⟨rfl, phases⟩ := ok out hout
  refine ⟨length_runTrace _ _, fun k p hk => ?_, t, (steps_starting hb _).trans ht, delivered.phase, delivered.busy,
    delivered.done, (delivered.ok out hout).1⟩
  obtain ⟨u, hu, run⟩ := phases k p hk
  exact ⟨u, (steps_starting hb k).trans hu, run.phase, run.busy, run.done⟩

end Sys2Proof.Machine
end

section
/-! PROOF. Taking an error (60_exceptions.md R210 to R217): what the abort writes, which codes it can write, and which
error of a run is taken first. -/

namespace Sys2Proof.Machine

/-! ### The abort -/

/-- Settles O17: each of the three checks takes its error by `raise`. -/
theorem abortEffect : Obligations.AbortEffect := by
  rintro s i c (⟨rfl, short, rfl⟩ | ⟨rfl, ragged, other, rfl⟩ | ⟨rfl, unusable, rfl⟩)
  · exact ⟨_, exec_keychk_of_short short, raise_effect .invalidKeyLength s⟩
  · rw [← workingLength_of_not_encp other] at ragged
    exact ⟨_, exec_lenchk_of_ragged ragged, raise_effect .unalignedData s⟩
  · exact ⟨_, exec_strip_of_unusable unusable, raise_effect .padStripError s⟩

/-! ### The codes -/

theorem bitsToText_toBits (x : BlockWord) : bitsToText (toBits x) = .ok (bytesOfWord x) := by
  have whole : (toBits x).length % 8 = 0 := by rw [length_toBits]
  exact if_neg (not_not_intro whole)

theorem valueToBinaryString_toNat {n : Nat} (x : BitVec n) : valueToBinaryString x.toNat n = .ok (toBits x) := by
  rw [valueToBinaryString_of_lt x.isLt, bitsN_toNat]

/-- An instruction keeps ERR, or it is START, or one of the three checks has taken its error. -/
theorem err_of_exec {i : Instr} {s t : State} (h : exec i s = .next t) :
    t.err = s.err ∨ t.err = 0 ∨ t.err = 1 ∨ t.err = 2 ∨ t.err = 5 := by
  by_cases same : t.status = s.status
  case pos => exact .inl (congrArg (BitVec.extractLsb' 2 3) same)
  obtain ⟨w, hw, idle⟩ | rfl | ⟨rfl | rfl | rfl, -⟩ := statusWriters i s t h same
  · obtain ⟨busy, -⟩ | ⟨-, rfl⟩ := exec_command_cases hw h
    · exact absurd idle (by simp [busy])
    · exact .inr (.inl (startRun_err w s))
  · obtain rfl := eq_of_exec_finish h
    exact .inl (statusFinish_err s)
  · obtain ⟨-, rfl⟩ | ⟨-, rfl⟩ := exec_keychk_cases h
    · exact .inr (.inr (.inl (raise_err .invalidKeyLength s)))
    · exact absurd rfl same
  · obtain ⟨-, rfl⟩ | ⟨-, rfl⟩ := exec_lenchk_cases h
    · exact .inr (.inr (.inr (.inl (raise_err .unalignedData s))))
    · exact absurd rfl same
  · obtain ⟨-, rfl⟩ | ⟨-, rfl⟩ := exec_strip_cases h
    · exact .inr (.inr (.inr (.inr (raise_err .padStripError s))))
    · exact absurd rfl same

/-- Settles O18: 64 bits are whole bytes, a 4-bit entry is below 16, and only three of the five errors are taken. -/
theorem internalErrorsUnreachable : Obligations.InternalErrorsUnreachable :=
  ⟨bitsToText_toBits, fun a => valueToBinaryString_toNat (romRead a), fun _ _ _ h => err_of_exec h⟩

/-! ### The first error of a run -/

section
variable {s : State}

/-- With a short key the run ends at KEYCHK (44_block_controller.md R180). -/
theorem steps_keychk_of_short (quiet : s.hostq = []) (phase : s.phase = phaseKeychk) (short : s.klen < 8) :
    steps 1 s = .next (raise .invalidKeyLength s) := by
  have keychk := step_of_uop quiet (i := .keychk) (phase ▸ rfl)
  exact steps_succ (keychk.trans (exec_keychk_of_short short))

/-- With a long key and an unaligned length, not ENCP, the run ends at LENCHK, KEY written (44_block_controller.md R180,
R181). -/
theorem steps_keychk_of_ragged (quiet : s.hostq = []) (phase : s.phase = phaseKeychk) (long : 8 ≤ s.klen)
    (ragged : s.dlen % 8 ≠ 0) (other : ¬(s.pad = true ∧ s.dir = false)) :
    steps 2 s = .next (raise .unalignedData { s with key := keyWord s, phase := phaseLenchk }) := by
  have keychk := step_of_uop quiet (i := .keychk) (phase ▸ rfl)
  have lenchk := step_of_uop (s := { s with key := keyWord s, phase := phaseLenchk }) quiet (i := .lenchk) rfl
  rw [← workingLength_of_not_encp other] at ragged
  exact (steps_succ (keychk.trans (exec_keychk_of_long long))).trans
    (steps_succ (lenchk.trans (exec_lenchk_of_ragged ragged)))

end

/-- Settles O47: START leads to KEYCHK, and only a long key leads on to LENCHK. -/
theorem firstErrorWins : Obligations.FirstErrorWins := by
  intro s w hb
  have started := steps_starting (w := w) hb
  refine ⟨fun short => ?_, fun long ragged other => ?_⟩
  · have run := (started 1).trans (steps_keychk_of_short rfl rfl short)
    exact ⟨_, run, raise_err .invalidKeyLength _, raise_done _ _, rfl, rfl⟩
  · have run := (started 2).trans (steps_keychk_of_ragged rfl rfl long ragged other)
    exact ⟨_, run, raise_err .unalignedData _, raise_done _ _, rfl, rfl⟩

end Sys2Proof.Machine
end

section
/-! PROOF. What the host sees and reaches (60_exceptions.md R221, R225): the value of each read, what it depends on, and
the fields an access can change. -/

namespace Sys2Proof.Machine

section
variable {s s' : State} {a : Nat}

/-! ### Reads -/

/-- A byte of a result (20_memory.md R58). -/
theorem resultAt_iff : s.resultAt a = true ↔ s.done = true ∧ s.err = 0 ∧ a < s.olen := by
  simp [State.resultAt, and_assoc]

theorem readOut_of_result (h : s.done = true ∧ s.err = 0 ∧ a < s.olen) :
    readOut a s = { s with rdata := some (outByte s a).toNat } := if_pos (resultAt_iff.2 h)

theorem readOut_of_no_result (h : ¬(s.done = true ∧ s.err = 0 ∧ a < s.olen)) :
    readOut a s = { s with rdata := some (Config.noResult s.draws).toNat, draws := s.draws + 1 } :=
  if_neg fun result => h (resultAt_iff.1 result)

/-- A register read returns what KLEN, DLEN, STATUS, OLEN and the count of free values determine. -/
theorem readReg_rdata_congr (r : HostReg) (klen : s.klen = s'.klen) (dlen : s.dlen = s'.dlen)
    (status : s.status = s'.status) (olen : s.olen = s'.olen) (draws : s.draws = s'.draws) :
    (readReg r s).rdata = (readReg r s').rdata := by
  have busy : s.busy = s'.busy := congrArg (BitVec.getLsbD · 0) status
  cases r with
  | cmd => simp [readReg, draws]
  | klen => simp [readReg, klen]
  | dlen => simp [readReg, dlen]
  | status => simp [readReg, status]
  | olen => simp [readReg, busy, olen]

/-- A read of OUT returns what STATUS, OLEN, OUT and the counts of free values and resets determine. -/
theorem readOut_rdata_congr (a : Nat) (status : s.status = s'.status) (olen : s.olen = s'.olen)
    (outbuf : s.outbuf = s'.outbuf) (draws : s.draws = s'.draws) (resets : s.resets = s'.resets) :
    (readOut a s).rdata = (readOut a s').rdata := by
  have done : s.done = s'.done := congrArg (BitVec.getLsbD · 1) status
  have err : s.err = s'.err := congrArg (BitVec.extractLsb' 2 3) status
  have byte : outByte s a = outByte s' a := by rw [outByte, outByte, outbuf, resets]
  by_cases result : s.done = true ∧ s.err = 0 ∧ a < s.olen
  · rw [readOut_of_result result, readOut_of_result (done ▸ err ▸ olen ▸ result), byte]
  · rw [readOut_of_no_result result, readOut_of_no_result (done ▸ err ▸ olen ▸ result), draws]

end

/-- Settles O52, access by access; a read of OUT by whether its byte is one of a result. -/
theorem hostReads : Obligations.HostReads := by
  intro s q
  refine ⟨fun hq => step_of_readReg hq, fun hq => step_of_readReg hq, fun hq => step_of_readReg hq,
    fun hq => step_of_readReg hq, fun hq hd => step_of_pollDone_done hq hd, fun a hq done err inside => ?_,
    fun hq => ⟨Config.cmdRead s.draws, step_of_readReg hq⟩, fun a hq noResult => ⟨Config.noResult s.draws, ?_⟩⟩
  · exact (step_of_readOut hq).trans
      (congrArg _ (readOut_of_result (s := { s with hostq := q }) ⟨done, err, inside⟩))
  · exact (step_of_readOut hq).trans (congrArg _ (readOut_of_no_result (s := { s with hostq := q }) noResult))

/-! ### The fields an access can change -/

/-- `t` is `s` but for KLEN, DLEN, KEYBUF, IN, the value last read and the count of free values. -/
def HostFieldsOnly (s t : State) : Prop :=
  t = { s with
    klen := t.klen, dlen := t.dlen, keybuf := t.keybuf, inbuf := t.inbuf
    rdata := t.rdata, draws := t.draws }

section
variable {s t : State}

theorem hostFieldsOnly_readReg (r : HostReg) (s : State) : HostFieldsOnly s (readReg r s) := by
  cases r <;> exact rfl

theorem hostFieldsOnly_readOut (a : Nat) (s : State) : HostFieldsOnly s (readOut a s) := by
  unfold readOut
  split <;> exact rfl

theorem hostFieldsOnly_writeKlen (n : Nat) (s : State) : HostFieldsOnly s (writeKlen n s) := by
  unfold writeKlen
  split <;> exact rfl

theorem hostFieldsOnly_writeDlen (n : Nat) (s : State) : HostFieldsOnly s (writeDlen n s) := by
  unfold writeDlen
  split <;> exact rfl

theorem hostFieldsOnly_of_writeKeybuf {a : Nat} {v : Byte} (h : writeKeybuf a v s = .next t) : HostFieldsOnly s t := by
  cases busy : s.busy with
  | true => cases (writeKeybuf_of_busy busy).symm.trans h
  | false => cases (writeKeybuf_of_idle busy).symm.trans h; exact rfl

theorem hostFieldsOnly_of_writeIn {a : Nat} {v : Byte} (h : writeIn a v s = .next t) : HostFieldsOnly s t := by
  cases busy : s.busy with
  | true => cases (writeIn_of_busy busy).symm.trans h
  | false => cases (writeIn_of_idle busy).symm.trans h; exact rfl

/-- An access that is no START, no reset and not the engine's turn changes the host's fields only. -/
theorem hostFieldsOnly_of_step {a : HostAct} {q : List HostAct} (hq : s.hostq = a :: q) (noStart : ∀ w, a ≠ .writeCmd w)
    (noEngine : a ≠ .engineStep) (polled : a = .pollDone → s.done = true) (noReset : a ≠ .reset)
    (h : step s = .next t) : HostFieldsOnly { s with hostq := q } t := by
  cases a with
  | writeCmd w => exact absurd rfl (noStart w)
  | engineStep => exact absurd rfl noEngine
  | reset => exact absurd rfl noReset
  | writeKlen n => cases (step_of_writeKlen hq).symm.trans h; exact hostFieldsOnly_writeKlen n _
  | writeDlen n => cases (step_of_writeDlen hq).symm.trans h; exact hostFieldsOnly_writeDlen n _
  | writeKeybuf k v => exact hostFieldsOnly_of_writeKeybuf ((step_of_writeKeybuf hq).symm.trans h)
  | writeIn k v => exact hostFieldsOnly_of_writeIn ((step_of_writeIn hq).symm.trans h)
  | readReg r => cases (step_of_readReg hq).symm.trans h; exact hostFieldsOnly_readReg r _
  | readOut k => cases (step_of_readOut hq).symm.trans h; exact hostFieldsOnly_readOut k _
  | pollDone => cases (step_of_pollDone_done hq (polled rfl)).symm.trans h; exact hostFieldsOnly_readReg .status _

end

/-- Settles O53: a read depends on no internal register, and no access but START, the engine's turn and a reset
reaches one. -/
theorem internalsInvisible : Obligations.InternalsInvisible := by
  refine ⟨fun s s' t t' a q q' hq hq' read klen dlen status olen outbuf draws resets h h' => ?_,
    fun s t a q hq noStart noEngine polled noReset h =>
      hostFieldsOnly_of_step hq noStart noEngine polled noReset h⟩
  obtain ⟨r, rfl⟩ | ⟨k, rfl⟩ := read
  · cases (step_of_readReg hq).symm.trans h
    cases (step_of_readReg hq').symm.trans h'
    exact readReg_rdata_congr r klen dlen status olen draws
  · cases (step_of_readOut hq).symm.trans h
    cases (step_of_readOut hq').symm.trans h'
    exact readOut_rdata_congr k status olen outbuf draws resets

end Sys2Proof.Machine
end

section
/-! PROOF. Reset and hazards (70_reset_and_hazards.md R240, R252, R254): the reset event, the writes BUSY shields, and how
long a result lasts. -/

namespace Sys2Proof.Machine

/-! ### Results last -/

section
variable {s t : State}

/-- A start of a run writes no byte of OUT. -/
theorem start_outbuf (w : BitVec 2) (s : State) : (start w s).outbuf = s.outbuf := by
  cases busy : s.busy with
  | true => rw [start_of_busy busy]
  | false => rw [start_of_idle busy, startRun_outbuf]

/-- OUT, OLEN and STATUS are none of the host's fields. -/
theorem HostFieldsOnly.result_eq (h : HostFieldsOnly s t) :
    t.outbuf = s.outbuf ∧ t.olen = s.olen ∧ t.status = s.status :=
  ⟨(congrArg State.outbuf h :), (congrArg State.olen h :), (congrArg State.status h :)⟩

/-- Everything a step of a waiting engine can do: start a run, reset, or change the host's fields only, as the engine's
own turn is no step there. -/
theorem step_cases_of_phase_idle (phase : s.phase = phaseIdle) (h : step s = .next t) :
    (∃ w q, s.hostq = .writeCmd w :: q ∧ t = start w { s with hostq := q }) ∨
    (∃ q, s.hostq = .reset :: q ∧ t = resetEvent { s with hostq := q }) ∨
    ∃ q, HostFieldsOnly { s with hostq := q } t := by
  obtain ⟨q, i, -, hd, he⟩ | ⟨q, w, hq, ht⟩ | ⟨q, r, -, rfl⟩ | ⟨q, a, -, rfl⟩ | ⟨q, n, -, rfl⟩ | ⟨q, n, -, rfl⟩ |
    ⟨q, a, v, -, -, rfl⟩ | ⟨q, a, v, -, -, rfl⟩ | ⟨q, hq, ht⟩ := step_cases h
  · obtain rfl := instr_of_phase hd phase rfl
    obtain rfl := eq_of_exec_idle he
    exact .inr (.inr ⟨q, rfl⟩)
  · exact .inl ⟨w, q, hq, ht⟩
  · exact .inr (.inr ⟨q, hostFieldsOnly_readReg r _⟩)
  · exact .inr (.inr ⟨q, hostFieldsOnly_readOut a _⟩)
  · exact .inr (.inr ⟨q, hostFieldsOnly_writeKlen n _⟩)
  · exact .inr (.inr ⟨q, hostFieldsOnly_writeDlen n _⟩)
  · exact .inr (.inr ⟨q, rfl⟩)
  · exact .inr (.inr ⟨q, rfl⟩)
  · exact .inr (.inl ⟨q, hq, ht⟩)

end

/-- Settles O55: of what a waiting engine's step can do, only START and a reset go beyond the host's fields, and START
leaves OUT alone. -/
theorem resultsLast : Obligations.ResultsLast := by
  intro s t phase noReset h
  obtain ⟨w, q, hq, rfl⟩ | ⟨q, hq, -⟩ | ⟨q, host⟩ := step_cases_of_phase_idle phase h
  · have starts : s.hostq.head? = some (.writeCmd w) := by rw [hq, List.head?_cons]
    exact ⟨start_outbuf w _, fun noStart => absurd starts (noStart w)⟩
  · exact absurd (by rw [hq, List.head?_cons]) noReset
  · obtain ⟨outbuf, olen, status⟩ := host.result_eq
    exact ⟨outbuf, fun _ => ⟨olen, status⟩⟩

/-! ### Writes while busy, and reset -/

/-- Settles O50: each of the three writes tests BUSY first. -/
theorem writesWhileBusyIgnored : Obligations.WritesWhileBusyIgnored := by
  intro s a q busy hq write
  have busy : State.busy { s with hostq := q } = true := busy
  obtain ⟨w, rfl⟩ | ⟨n, rfl⟩ | ⟨n, rfl⟩ := write
  · rw [step_of_writeCmd hq, exec_decodeCmd, start_of_busy busy]
  · rw [step_of_writeKlen hq, writeKlen_of_busy busy]
  · rw [step_of_writeDlen hq, writeDlen_of_busy busy]

/-- Settles O54: the state after the event is the reset state but for the host's own fields. -/
theorem resetEventEffect : Obligations.ResetEventEffect := fun s q hq =>
  ⟨resetEvent { s with hostq := q }, step_of_reset hq, rfl, rfl, rfl, fun _ => ⟨rfl, rfl, rfl⟩, rfl⟩

end Sys2Proof.Machine
end

section
/-! PROOF. Complementation (95_test_vectors.md section 4.3): permutations, rotations and extracts of a complement are
complements; key mix cancels the two complements of `E(R)` and the round key, so F sees neither; and L's complement
passes through LMIX. -/

namespace Sys2Proof.Machine

/-! ### Positions, tables and rotations -/

section
variable {n : Nat}

theorem bitAt_not (x : BitVec n) {p : Nat} (h1 : 1 ≤ p) (hn : p ≤ n) : bitAt (~~~x) p = !bitAt x p := by
  have inside : p - 1 < n := by omega
  simp [bitAt, inside]

theorem permute_not {m : Nat} {t : List Nat} (h : tableOk n m t = true) (x : BitVec n) :
    permute m t (~~~x) = ~~~permute m t x := by
  refine eq_of_bitAt fun p h1 hm => ?_
  obtain ⟨entry1, entryN⟩ := entry_of_tableOk h h1 hm
  have length := length_of_tableOk h
  rw [bitAt_not _ h1 hm, bitAt_permute length _ h1 hm, bitAt_permute length _ h1 hm, bitAt_not x entry1 entryN]

theorem rotl_not (x : BitVec n) (s : Nat) : rotl (~~~x) s = ~~~rotl x s := by
  refine eq_of_bitAt fun p h1 hn => ?_
  have inside : (p - 1 + s) % n < n := Nat.mod_lt _ (by omega)
  rw [bitAt_not _ h1 hn, bitAt_rotl _ s h1 hn, bitAt_rotl _ s h1 hn, bitAt_not x (by omega) (by omega)]

/-- The library's `BitVec.extractLsb'_not_of_lt` leaves out the part that ends at the register's top, as C and L do. -/
theorem extractLsb'_not (x : BitVec n) {start len : Nat} (h : start + len ≤ n) :
    (~~~x).extractLsb' start len = ~~~x.extractLsb' start len := by
  refine BitVec.eq_of_getLsbD_eq fun i hi => ?_
  have inside : start + i < n := by omega
  simp [hi, inside]

theorem xor_not_not (x y : BitVec n) : ~~~x ^^^ ~~~y = x ^^^ y := by
  rw [← BitVec.not_xor_left, ← BitVec.not_xor_right, BitVec.not_not]

end

/-! ### Key schedule -/

/-- Both registers of a pair, as C and D or L and R, complemented. -/
def notPair {n : Nat} (xy : BitVec n × BitVec n) : BitVec n × BitVec n := (~~~xy.1, ~~~xy.2)

theorem pc1Split_not (k : KeyWord) : pc1Split (~~~k) = notPair (pc1Split k) := by
  obtain ⟨-, -, -, -, okPC1, -⟩ := tables_ok
  rw [pc1Split, permute_not okPC1, extractLsb'_not _ (by decide), extractLsb'_not _ (by decide)]
  rfl

theorem halvesAfter_not (k : KeyWord) (n : Nat) : halvesAfter (~~~k) n = notPair (halvesAfter k n) := by
  rw [halvesAfter_eq_rotl, halvesAfter_eq_rotl, pc1Split_not, notPair, rotl_not, rotl_not]
  rfl

theorem keyOf_not (k : KeyWord) (i : Nat) : keyOf (~~~k) i = ~~~keyOf k i := by
  obtain ⟨-, -, -, -, -, okPC2⟩ := tables_ok
  rw [keyOf, halvesAfter_not, notPair, pc2Key, ← BitVec.not_append, permute_not okPC2]
  rfl

theorem roundKeyAt_ks_not (k : KeyWord) (dir : Bool) {i : Nat} (h : i < 16) :
    roundKeyAt (ks (~~~k)) dir i = ~~~roundKeyAt (ks k) dir i := by
  rw [roundKeyAt_ks _ dir h, roundKeyAt_ks _ dir h, keyOf_not]

/-! ### Rounds and block -/

/-- F is the same under both complements: they cancel in the key mix. -/
theorem feistelF_not_not (r : Half) (k : RoundKey) : feistelF (~~~r) (~~~k) = feistelF r k := by
  obtain ⟨-, -, okE, -⟩ := tables_ok
  rw [feistelF, expand, permute_not okE, keyMix, xor_not_not]
  rfl

theorem roundPair_not (lr : Half × Half) (k : RoundKey) : roundPair (notPair lr) (~~~k) = notPair (roundPair lr k) := by
  have mixed : lmix (~~~lr.1) (feistelF (~~~lr.2) (~~~k)) = ~~~lmix lr.1 (feistelF lr.2 k) := by
    rw [feistelF_not_not]
    exact BitVec.not_xor_left.symm
  exact congrArg (~~~lr.2, ·) mixed

theorem afterRounds_not (k : KeyWord) (dir : Bool) (lr : Half × Half) {n : Nat} (h : n ≤ 16) :
    afterRounds (ks (~~~k)) dir (notPair lr) n = notPair (afterRounds (ks k) dir lr n) := by
  induction n with
  | zero => rfl
  | succ n ih => rw [afterRounds, ih (Nat.le_of_succ_le h), roundKeyAt_ks_not k dir h, roundPair_not, afterRounds]

theorem loadedHalves_not (x : BlockWord) : loadedHalves (~~~x) = notPair (loadedHalves x) := by
  obtain ⟨okIP, -⟩ := tables_ok
  rw [loadedHalves, permute_not okIP, extractLsb'_not _ (by decide), extractLsb'_not _ (by decide)]
  rfl

theorem blockOutput_not (lr : Half × Half) : blockOutput (notPair lr) = ~~~blockOutput lr := by
  obtain ⟨-, okFP, -⟩ := tables_ok
  rw [blockOutput, notPair, ← BitVec.not_append, permute_not okFP]
  rfl

/-- Settles O33: loading, sixteen rounds and output each turn complements into complements. -/
theorem complementation : Obligations.Complementation := by
  intro k dir x
  have rounds := afterRounds_not k dir (loadedHalves x) (n := Config.nRounds) (Nat.le_refl 16)
  rw [blockCipher, loadedHalves_not, rounds, blockOutput_not, blockCipher]

end Sys2Proof.Machine
end
